-- ==== Sys2Proof/Word.lean ====
section
/-! DEFINITION. Word types of the RD-03D serial frame engine (00_scope.md R6): bytes, 16-bit words and
the float representation `F`. -/

namespace Sys2Proof

/-- `u8` of R6. -/
abbrev Byte := BitVec 8

/-- `u16` of R6: the raw words on the wire (R53), BYTES_PENDING and LOOP_DURATION_MS (R16). -/
abbrev U16 := BitVec 16

/-- The float representation `F` of R5 and R116, choice (i): the rationals, with `rnd` the identity on every
rational exact value. DESIGN CHOICE, log entry 2. -/
abbrev F := Rat

end Sys2Proof
end

