-- ==== Sys2Proof/Config.lean ====
section
/-! DEFINITION. The parameters of 00_scope.md R5: the literals of the wire format, the open parameters of an
implementation, and the free values (constants with no body, of which nothing can be proved). -/

namespace Sys2Proof.Config

/-- `HDR` of R5: the header magic, in stream order. -/
def HDR : List Byte := [0xAA#8, 0xFF#8, 0x03#8, 0x00#8]

/-- `TRL` of R5: the trailer magic, in stream order. -/
def TRL : List Byte := [0x55#8, 0xCC#8]

abbrev LEN_SINGLE : Nat := 14
abbrev LEN_MULTI : Nat := 30
abbrev TRL_OFF_SINGLE : Nat := 12
abbrev TRL_OFF_MULTI : Nat := 28
abbrev MIN_UNREAD : Nat := 14
abbrev BLK_USED : Nat := 6
abbrev MAX_LEN : Nat := 512
abbrev MM_PER_M : Nat := 1000
abbrev CM_PER_M : Nat := 100

/-- The tolerance the source compares floats with, "within floating tolerance 1e-3" (R116, D7).
DEDUCED, log entry 3. -/
def fltTolerance : F := 1 / 1000

/-- How far the rational stand-ins for the exact irrational range and bearing (`Machine/Numeric.lean`) may lie from the
exact real; it is added to the tolerance so that no value within 1e-3 of the exact one is shut out (log entry 3). -/
def approxSlack : F := 1 / 1000000

/-- FREE VALUE: the rounding error of an irrational `range_m`, per coordinates in millimetres (R116, R127; D7, U5). -/
opaque rangeError : Int → Int → F

/-- FREE VALUE: the rounding error of an irrational `bearing_deg`, per coordinates in millimetres (R116, R128; D7, U5). -/
opaque bearingError : Int → Int → F

/-- FREE VALUE `ATAN2DEG_00` (R5, R128; D20, U6): the bearing of a present target at x = y = 0. -/
opaque ATAN2DEG_00 : F

/-- FREE VALUE: what TO_METRES returns for an operand outside −32767..32767, where R113 states no result
(DESIGN CHOICE, log entry 19). -/
opaque metresOutsideRange : Int → F

/-- FREE VALUE: what TO_MPS returns for an operand outside −32767..32767, where R114 states no result
(DESIGN CHOICE, log entry 19). -/
opaque mpsOutsideRange : Int → F

/-- OPEN PARAMETER: which numbers are codes of time stamps (R5 `TS`; D8, U9). -/
opaque isTimeStamp : Nat → Bool

end Sys2Proof.Config

namespace Sys2Proof

/-- The open parameter `TS` of R5, the type of time stamps (R18; D8, U9): one stamp, and one more for every code that
`isTimeStamp` admits. As that function has no body, this is any type of plain data with a value in it, finite or not, and
what is proved with it holds for every such choice (log entry 5). -/
structure TS where
  code : Option { n : Nat // Config.isTimeStamp n = true }
deriving DecidableEq, Repr, Inhabited

end Sys2Proof

namespace Sys2Proof.Config

/-- FREE VALUE: the `k`-th draw of the current time `NOW` (R19; D8, U9). -/
opaque NOW : Nat → TS

/-- FREE VALUE: the `k`-th draw of the elapsed wall-clock duration of a cycle (R148; D8, U8). -/
opaque duration : Nat → U16

end Sys2Proof.Config

namespace Sys2Proof

/-- The OPEN parameters of R5 that an implementation fixes once; `none` is the spec's ∞. They stand in State so that every
statement covers every choice (log entry 4); no operation changes them. -/
structure Params where
  /-- `PHYS_CAP`: the physical storage behind BUF, "must be ≥ `MAX_LEN`; default ∞" (R5, D4). -/
  physCap : Option Nat
  /-- `CTR_W`: the width in bits of FRAMES_PARSED and FRAMES_BAD, default ∞ (R5, D6). -/
  ctrW : Option Nat
  /-- `PRESENT_ON_RAW`: presence tested on raw words instead of decoded values; the value is false (R5, D11). -/
  presentOnRaw : Bool
deriving DecidableEq, Repr

namespace Params

/-- The values R5 gives. -/
def spec : Params := { physCap := none, ctrW := none, presentOnRaw := false }

/-- A buffer of `n` bytes fits the physical store (R11, R70). -/
def fits (p : Params) (n : Nat) : Bool :=
  match p.physCap with
  | none => true
  | some cap => decide (n ≤ cap)

/-- A counter holding `n` lies within the width `CTR_W` (D6). -/
def counts (p : Params) (n : Nat) : Bool :=
  match p.ctrW with
  | none => true
  | some w => decide (n < 2 ^ w)

/-- "OPEN, a natural number or ∞, must be ≥ `MAX_LEN`" (R5). -/
def wf (p : Params) : Bool :=
  match p.physCap with
  | none => true
  | some cap => decide (Config.MAX_LEN ≤ cap)

end Params

end Sys2Proof
end

