-- ==== Sys2Proof/Syntax.lean ====
section
/-! DEFINITION. The instructions: one constructor per row of spec/opcode_table.json. Frames of the wire format are the
instructions of the byte stream, operations those of the engine (00_scope.md R8). -/

namespace Sys2Proof

/-- The frame kinds of R50. -/
inductive FrameKind where
  | single
  | multi
deriving DecidableEq, Repr

/-- The total length of a frame of this kind (R50). -/
def FrameKind.len : FrameKind → Nat
  | .single => Config.LEN_SINGLE
  | .multi => Config.LEN_MULTI

/-- A target's number: block `j` of a multi frame, and slot `j` of the block's register file (R13, R52, R134). -/
inductive TargetIdx where
  | t1
  | t2
  | t3
deriving DecidableEq, Repr

/-- `BLK_OFF[1..3]` of R5: the frame-relative offset of target block `j`. -/
def TargetIdx.blkOff : TargetIdx → Nat
  | .t1 => 4
  | .t2 => 12
  | .t3 => 20

/-- The operand `n` of ADVANCE, "in {1, 14, 30}" (R74). -/
inductive Stride where
  | one
  | fourteen
  | thirty
deriving DecidableEq, Repr

def Stride.bytes : Stride → Nat
  | .one => 1
  | .fourteen => 14
  | .thirty => 30

/-- One 8-byte target block as it stands on the wire: three words and the two ignored bytes (R51, R52, R59). -/
structure Block where
  x : U16
  y : U16
  v : U16
  pad0 : Byte
  pad1 : Byte
deriving DecidableEq, Repr

/-- One constructor per row of spec/opcode_table.json. An operand named `f` or `buf` is a frame copy (R136). The chunk of
INGEST and DECODE_CYCLE, the window of SYNC_CLASSIFY and the install angle are not operands of the word: the machine holds
them in State (R19, R90). -/
inductive Instr where
  /-- Frame row MULTI, format `M` (R52). -/
  | multi (b1 b2 b3 : Block)
  /-- Frame row SINGLE, format `S` (R51). -/
  | single (b : Block)
  /-- Row CORRUPT_BYTE: a header byte followed by neither trailer (R56 row 3). -/
  | corruptByte
  /-- Row GARBAGE_BYTE: a byte `b` at which no header stands (R56 row 4). -/
  | garbageByte (b : Byte)
  /-- 0x0 RESET (R180). -/
  | reset
  /-- 0x1 INGEST (R70). -/
  | ingest
  /-- 0x2 PENDING_UNREAD (R71). -/
  | pendingUnread
  /-- 0x3 ENFORCE_CAPACITY, `max` at "default and only value used" (R72). -/
  | enforceCapacity
  /-- 0x4 COMPACT (R73). -/
  | compact
  /-- 0x5 ADVANCE(n) (R74). -/
  | advance (n : Stride)
  /-- 0x6 SYNC_CLASSIFY (R91). -/
  | syncClassify
  /-- 0x7 READ_U16_LE(buf, offset) (R110). -/
  | readU16Le (buf : List Byte) (offset : Nat)
  /-- 0x8 DECODE_SIGNED(raw) (R111). -/
  | decodeSigned (raw : U16)
  /-- 0x9 TO_METRES(mm) (R113). -/
  | toMetres (mm : Int)
  /-- 0xA TO_MPS(cm) (R114). -/
  | toMps (cm : Int)
  /-- 0xB DECODE_BLOCK(f, o), `o = BLK_OFF[j]` (R125). -/
  | decodeBlock (f : List Byte) (j : TargetIdx)
  /-- 0xC EXTRACT_MULTI(f) (R129). -/
  | extractMulti (f : List Byte)
  /-- 0xD EXTRACT_SINGLE(f, INSTALL_OFFSET_DEG) (R130). -/
  | extractSingle (f : List Byte)
  /-- 0xE DECODE_CYCLE (R145). -/
  | decodeCycle
deriving DecidableEq, Repr

/-- The 4-bit op code of an operation row (00_scope.md R8, second table); a frame row has none. -/
def Instr.opCode : Instr → Option Nat
  | .multi _ _ _ => none
  | .single _ => none
  | .corruptByte => none
  | .garbageByte _ => none
  | .reset => some 0x0
  | .ingest => some 0x1
  | .pendingUnread => some 0x2
  | .enforceCapacity => some 0x3
  | .compact => some 0x4
  | .advance _ => some 0x5
  | .syncClassify => some 0x6
  | .readU16Le _ _ => some 0x7
  | .decodeSigned _ => some 0x8
  | .toMetres _ => some 0x9
  | .toMps _ => some 0xA
  | .decodeBlock _ _ => some 0xB
  | .extractMulti _ => some 0xC
  | .extractSingle _ => some 0xD
  | .decodeCycle => some 0xE

/-- An operation row, as opposed to a frame or non-frame row of the byte stream. -/
def Instr.isOp (i : Instr) : Bool := i.opCode.isSome

end Sys2Proof
end

