-- ==== Sys2Proof/WellFormed.lean ====
section
/-! DEFINITION. The operand ranges the spec gives each operation; a frame row is well formed as it stands. -/

namespace Sys2Proof

/-- A frame copy has 14 or 30 bytes (R110, R136). -/
def isFrameLen (f : List Byte) : Bool := f.length == Config.LEN_SINGLE || f.length == Config.LEN_MULTI

/-- `int32` of R6, the type of TO_METRES's and TO_MPS's operand (R113, R114). -/
def isInt32 (n : Int) : Bool := decide (-2 ^ 31 ≤ n) && decide (n < 2 ^ 31)

/-- The operands lie where the instruction's rule puts them. -/
def Instr.wellFormed : Instr → Bool
  | .multi _ _ _ => true
  | .single _ => true
  | .corruptByte => true
  | .garbageByte _ => true
  | .reset => true
  | .ingest => true
  | .pendingUnread => true
  | .enforceCapacity => true
  | .compact => true
  | .advance _ => true
  | .syncClassify => true
  | .readU16Le buf offset => isFrameLen buf && decide (offset + 2 ≤ buf.length)
  | .decodeSigned _ => true
  | .toMetres mm => isInt32 mm
  | .toMps cm => isInt32 cm
  | .decodeBlock f j => isFrameLen f && decide (j.blkOff + Config.BLK_USED ≤ f.length)
  | .extractMulti f => f.length == Config.LEN_MULTI
  | .extractSingle f => f.length == Config.LEN_SINGLE
  | .decodeCycle => true

end Sys2Proof
end

