-- ==== Sys2Proof/Decode.lean ====
section
/-! DEFINITION. Decoding and encoding. The byte stream is decoded at CURSOR by the mask and match rows of
spec/opcode_table.json tried in the order of 30_encoding.md R56; an operation word is decoded by its 4-bit op code
(00_scope.md R8). Both decoders are total and reject by name. -/

namespace Sys2Proof

/-- Why a decoder gives no instruction. -/
inductive DecodeError where
  /-- The unread bytes start neither a frame nor a byte to skip: wait for more (R56 rows 5 and 6). -/
  | needMore
  /-- An operation word without a byte. -/
  | emptyWord
  /-- Op code 0xF is "(unassigned)" (R8). -/
  | unassignedCode
  /-- An op code has four bits (R57); a first byte above 0x0F is none. -/
  | codeOutOfRange
  /-- The word ends inside its operand bytes. -/
  | truncated
  /-- The word goes on after its operand bytes. -/
  | trailingBytes
  /-- ADVANCE's `n` is none of 1, 14, 30 (R74). -/
  | badStride
  /-- A frame copy is neither a single nor a multi frame (R136). -/
  | badFrameKind
  /-- A block number is none of 1, 2, 3 (R125). -/
  | badBlock
  /-- `offset + 2 ≤ |buf|` or `o + 6 ≤ |f|` fails (R110, R125). -/
  | offsetOutsideFrame
deriving DecidableEq, Repr

/-! ### Byte order (20_memory.md R34) -/

/-- The `k` low bytes of `n`, least significant first. -/
def leBytes : Nat → Nat → List Byte
  | 0, _ => []
  | k + 1, n => BitVec.ofNat 8 n :: leBytes k (n / 256)

/-- The number whose bytes, least significant first, these are. -/
def leValue : List Byte → Nat
  | [] => 0
  | b :: bs => b.toNat + 256 * leValue bs

/-- A 16-bit field as its two bytes on the wire, low byte first (R34). -/
def wordBytes (x : U16) : List Byte := leBytes 2 x.toNat

/-- The 16-bit field at frame-relative offset `k` (R34, R51, R52). -/
def wordAt (w : List Byte) (k : Nat) : U16 := BitVec.ofNat 16 (leValue ((w.drop k).take 2))

/-! ### The byte stream: frames and bytes that start none -/

/-- A row of the table as R57 reads it: `b[k] & mask[k] = match[k]` for every byte, and `min_unread` bytes there. -/
structure FrameRow where
  mask : List Byte
  pattern : List Byte
  minUnread : Nat
deriving DecidableEq, Repr

/-- Row MULTI: mask `FF FF FF FF, 24 × 00, FF FF`, match `AA FF 03 00, 24 × 00, 55 CC` (R56). -/
def multiRow : FrameRow where
  mask := List.replicate 4 0xFF#8 ++ List.replicate 24 0x00#8 ++ List.replicate 2 0xFF#8
  pattern := [0xAA#8, 0xFF#8, 0x03#8, 0x00#8] ++ List.replicate 24 0x00#8 ++ [0x55#8, 0xCC#8]
  minUnread := 30

/-- Row SINGLE: mask `FF FF FF FF, 8 × 00, FF FF`, match `AA FF 03 00, 8 × 00, 55 CC` (R56). -/
def singleRow : FrameRow where
  mask := List.replicate 4 0xFF#8 ++ List.replicate 8 0x00#8 ++ List.replicate 2 0xFF#8
  pattern := [0xAA#8, 0xFF#8, 0x03#8, 0x00#8] ++ List.replicate 8 0x00#8 ++ [0x55#8, 0xCC#8]
  minUnread := 14

/-- The row applies to the unread bytes `w` (R57). -/
def FrameRow.hits (r : FrameRow) (w : List Byte) : Bool :=
  decide (r.minUnread ≤ w.length) && (List.zipWith (· &&& ·) (w.take r.mask.length) r.mask == r.pattern)

/-- `w[0..3] = AA FF 03 00` (R56). -/
def headerAt0 (w : List Byte) : Bool := w.take 4 == [0xAA#8, 0xFF#8, 0x03#8, 0x00#8]

/-- The target block at frame-relative offset `o` (R51, R52). -/
def blockAt (w : List Byte) (o : Nat) : Block where
  x := wordAt w o
  y := wordAt w (o + 2)
  v := wordAt w (o + 4)
  pad0 := w.getD (o + 6) 0
  pad1 := w.getD (o + 7) 0

/-- What stands at the front of the unread bytes `w`: R56, rows 1 to 6. -/
def decodeFrame (w : List Byte) : Except DecodeError Instr :=
  if multiRow.hits w then .ok (.multi (blockAt w 4) (blockAt w 12) (blockAt w 20))
  else if singleRow.hits w then .ok (.single (blockAt w 4))
  else if headerAt0 w then
    if 30 ≤ w.length then .ok .corruptByte else .error .needMore
  else if 14 ≤ w.length then .ok (.garbageByte (w.getD 0 0))
  else .error .needMore

/-! ### Operation words

The table gives an operation row its four-bit op code and no operand bits, and says the codes are "used only as row keys"
(D12). An operation word is the op code in one byte, upper half zero, and then the operands the rule names. DESIGN CHOICE,
log entry 6. -/

/-- The first `n` bytes and the rest, where there are so many. -/
def splitBytes (n : Nat) (bs : List Byte) : Except DecodeError (List Byte × List Byte) :=
  if n ≤ bs.length then .ok (bs.take n, bs.drop n) else .error .truncated

/-- ADVANCE's operand byte: 0, 1, 2 stand for 1, 14, 30. -/
def strideOf : Nat → Except DecodeError Stride
  | 0 => .ok .one
  | 1 => .ok .fourteen
  | 2 => .ok .thirty
  | _ => .error .badStride

/-- A block's operand byte: 0, 1, 2 stand for blocks 1, 2, 3. -/
def blockOf : Nat → Except DecodeError TargetIdx
  | 0 => .ok .t1
  | 1 => .ok .t2
  | 2 => .ok .t3
  | _ => .error .badBlock

/-- A frame copy's operand byte: 0 announces 14 bytes, 1 announces 30. -/
def frameLenOf : Nat → Except DecodeError Nat
  | 0 => .ok Config.LEN_SINGLE
  | 1 => .ok Config.LEN_MULTI
  | _ => .error .badFrameKind

/-- The instruction with its operands read, provided it is well formed. -/
def checked (i : Instr) (e : DecodeError) (rest : List Byte) : Except DecodeError (Instr × List Byte) :=
  if i.wellFormed then .ok (i, rest) else .error e

/-- Operands `kind, k, f` of READ_U16_LE and DECODE_BLOCK. -/
def splitFrameOperand (bs : List Byte) : Except DecodeError (Nat × List Byte × List Byte) :=
  match bs with
  | kind :: k :: bs =>
    match frameLenOf kind.toNat with
    | .error e => .error e
    | .ok n =>
      match splitBytes n bs with
      | .error e => .error e
      | .ok (f, rest) => .ok (k.toNat, f, rest)
  | _ => .error .truncated

/-- One operation from the front of the bytes, and the bytes after it. -/
def decodeOp (bs : List Byte) : Except DecodeError (Instr × List Byte) :=
  match bs with
  | [] => .error .emptyWord
  | code :: bs =>
    match code.toNat with
    | 0x0 => .ok (.reset, bs)
    | 0x1 => .ok (.ingest, bs)
    | 0x2 => .ok (.pendingUnread, bs)
    | 0x3 => .ok (.enforceCapacity, bs)
    | 0x4 => .ok (.compact, bs)
    | 0x5 =>
      match bs with
      | [] => .error .truncated
      | n :: bs =>
        match strideOf n.toNat with
        | .error e => .error e
        | .ok n => .ok (.advance n, bs)
    | 0x6 => .ok (.syncClassify, bs)
    | 0x7 =>
      match splitFrameOperand bs with
      | .error e => .error e
      | .ok (offset, f, rest) => checked (.readU16Le f offset) .offsetOutsideFrame rest
    | 0x8 =>
      match splitBytes 2 bs with
      | .error e => .error e
      | .ok (raw, rest) => .ok (.decodeSigned (BitVec.ofNat 16 (leValue raw)), rest)
    | 0x9 =>
      match splitBytes 4 bs with
      | .error e => .error e
      | .ok (n, rest) => .ok (.toMetres (BitVec.ofNat 32 (leValue n)).toInt, rest)
    | 0xA =>
      match splitBytes 4 bs with
      | .error e => .error e
      | .ok (n, rest) => .ok (.toMps (BitVec.ofNat 32 (leValue n)).toInt, rest)
    | 0xB =>
      match splitFrameOperand bs with
      | .error e => .error e
      | .ok (j, f, rest) =>
        match blockOf j with
        | .error e => .error e
        | .ok j => checked (.decodeBlock f j) .offsetOutsideFrame rest
    | 0xC =>
      match splitBytes Config.LEN_MULTI bs with
      | .error e => .error e
      | .ok (f, rest) => .ok (.extractMulti f, rest)
    | 0xD =>
      match splitBytes Config.LEN_SINGLE bs with
      | .error e => .error e
      | .ok (f, rest) => .ok (.extractSingle f, rest)
    | 0xE => .ok (.decodeCycle, bs)
    | 0xF => .error .unassignedCode
    | _ => .error .codeOutOfRange

/-- The operation that a word holds, exactly. -/
def decodeWord (bs : List Byte) : Except DecodeError Instr :=
  match decodeOp bs with
  | .error e => .error e
  | .ok (i, []) => .ok i
  | .ok (_, _ :: _) => .error .trailingBytes

/-! ### Encoding -/

/-- A target block as its eight bytes (R51, R52). -/
def Block.bytes (b : Block) : List Byte := wordBytes b.x ++ wordBytes b.y ++ wordBytes b.v ++ [b.pad0, b.pad1]

def strideByte : Stride → Byte
  | .one => 0
  | .fourteen => 1
  | .thirty => 2

def blockByte : TargetIdx → Byte
  | .t1 => 0
  | .t2 => 1
  | .t3 => 2

/-- The operand byte that announces a frame copy of this length. -/
def frameKindByte (f : List Byte) : Byte := if f.length == Config.LEN_MULTI then 1 else 0

/-- An `int32` operand (R113, R114) as four bytes, least significant first. -/
def int32Bytes (n : Int) : List Byte := leBytes 4 (BitVec.ofInt 32 n).toNat

/-- The bytes of a well-formed instruction: a frame as it stands on the wire (R51, R52), the one byte a non-frame row
consumes (R56), or an operation word. -/
def encode : Instr → List Byte
  | .multi b1 b2 b3 => Config.HDR ++ b1.bytes ++ b2.bytes ++ b3.bytes ++ Config.TRL
  | .single b => Config.HDR ++ b.bytes ++ Config.TRL
  | .corruptByte => [0xAA#8]
  | .garbageByte b => [b]
  | .reset => [0x00#8]
  | .ingest => [0x01#8]
  | .pendingUnread => [0x02#8]
  | .enforceCapacity => [0x03#8]
  | .compact => [0x04#8]
  | .advance n => [0x05#8, strideByte n]
  | .syncClassify => [0x06#8]
  | .readU16Le buf offset => [0x07#8, frameKindByte buf, BitVec.ofNat 8 offset] ++ buf
  | .decodeSigned raw => 0x08#8 :: wordBytes raw
  | .toMetres mm => 0x09#8 :: int32Bytes mm
  | .toMps cm => 0x0A#8 :: int32Bytes cm
  | .decodeBlock f j => [0x0B#8, frameKindByte f, blockByte j] ++ f
  | .extractMulti f => 0x0C#8 :: f
  | .extractSingle f => 0x0D#8 :: f
  | .decodeCycle => [0x0E#8]

/-! ### The opcode table's words -/

/-- No operation word is longer than this: op code, kind, offset and a 30-byte frame copy. -/
def maxWordBytes : Nat := 33

/-- The bytes of a table word, byte 0 its bits 7..0, and zeros up to the longest operation word where the table's row is an
operation. A row of 14 or more bytes is a frame row and stands as it is. -/
def tableBytes (nbits w : Nat) : List Byte :=
  let n := (nbits + 7) / 8
  if Config.LEN_SINGLE ≤ n then leBytes n w else leBytes n w ++ List.replicate (maxWordBytes - n) 0

/-- The table's rows that are frames, by the length of their patterns. -/
def isFrameWord (nbits : Nat) : Bool := decide (Config.LEN_SINGLE ≤ (nbits + 7) / 8)

/-- The operation at the front of a table word and exactly its bytes, the zeros after it cut off. -/
def tableOpWord (bs : List Byte) : List Byte :=
  match decodeOp bs with
  | .ok (_, rest) => bs.take (bs.length - rest.length)
  | .error _ => bs

/-- The instruction this decoder reads from a word of spec/opcode_table.json. -/
def decodeTableWord (nbits w : Nat) : Option Instr :=
  if isFrameWord nbits then (decodeFrame (tableBytes nbits w)).toOption
  else ((decodeOp (tableBytes nbits w)).map Prod.fst).toOption

end Sys2Proof
end

