-- ==== Sys2Proof/Machine/State.lean ====
section
/-! DEFINITION. The state of the engine as plain data (10_state.md), the reasons a step can stop, and the state after reset
(70_reset_and_hazards.md R180). -/

namespace Sys2Proof.Machine

/-- The numeric fields of a TargetRecord (R13). Its sixth field `present` is whether the slot holds a record (R14). -/
structure TargetRecord where
  /-- metres, `xmm / 1000` -/
  x_m : F
  /-- metres, `ymm / 1000` -/
  y_m : F
  /-- metres per second, `vcm / 100` -/
  speed_mps : F
  /-- metres, `sqrt(x_m² + y_m²)` -/
  range_m : F
  /-- degrees, corrected and normalised for single frames -/
  bearing_deg : F
deriving DecidableEq, Repr

/-- A target slot: `absent` is `none` (R14, D26). -/
abbrev Slot := Option TargetRecord

/-- The `present` flag of a slot (R13, R14). -/
def Slot.present (t : Slot) : Bool := t.isSome

/-- "Exactly three named slots" (R13); also the three results of EXTRACT_MULTI (R129). -/
structure Slots where
  s1 : Slot
  s2 : Slot
  s3 : Slot
deriving DecidableEq, Repr

/-- The verdict of SYNC_CLASSIFY (R91); `FRAME(kind, len)` has the kind's own length (R50). -/
inductive Verdict where
  | needMore
  | skip1 (counted : Bool)
  | frame (kind : FrameKind)
deriving DecidableEq, Repr

/-- The named states of the synchronizer, points on the path of one classification and no stored state (R20, R92). -/
inductive SyncState where
  | scanning
  | needMore
  | garbage
  | headerFound
  | frameReady (kind : FrameKind)
deriving DecidableEq, Repr

/-- What the `event` primitive records (R7): the anomaly events of R161 and `Compacted` of R73. -/
inductive Event where
  | desync
  | corruptHeader
  | overflow (drop : Nat)
  | incomplete
  | noTarget (j : TargetIdx)
  | compacted
deriving DecidableEq, Repr

/-- The value an operation returns: the model's own latch for it (log entry 8). -/
inductive OpResult where
  | none
  | u16 (v : U16)
  | int (n : Int)
  | real (x : F)
  | verdict (v : Verdict)
  | block (t : Slot)
  | blocks (ts : Slots)
deriving DecidableEq, Repr

/-- The input INSTALL_OFFSET_DEG (R19): a finite number of degrees, or a float that is none (U10). -/
inductive InstallAngle where
  | finite (deg : F)
  | nonFinite
deriving DecidableEq, Repr

/-- What the engine has to run: the model's own (log entry 7). -/
inductive Task where
  /-- An operation word, issued by the host (RESET, DECODE_CYCLE; R8) or by the session (the others; R145). -/
  | word (bytes : List Byte)
  /-- Line 3 of R145, which has no op code: clear the slots and NEAREST. -/
  | clearTargets
  /-- Lines 4 to 13 of R145: the drain loop. -/
  | drain
  /-- Lines 15 and 16 of R145, which have no op code. -/
  | sample
deriving DecidableEq, Repr

/-- The faults: none. "No exception-style failures"; "no operation of the block faults" (R160). -/
inductive Fault where
deriving DecidableEq, Repr

/-- The reasons a step is refused: the spec's `refuse` (R7, "the spec gives the situation no meaning"). -/
inductive Refusal where
  /-- Raised by an arm of `exec` whose instruction has no meaning yet. Safe. -/
  | notModelled (mnemonic : String)
  /-- Raised by INGEST when `LEN + |chunk| > PHYS_CAP` for a finite PHYS_CAP (R70, U1). Safe. -/
  | physCapExceeded
  /-- Raised by an increment of FRAMES_PARSED or FRAMES_BAD at the top of a finite CTR_W (D6, U2). Safe. -/
  | counterOverflow
  /-- Raised by EXTRACT_SINGLE of a present target when INSTALL_OFFSET_DEG is not a finite number (R131, U10). Safe. -/
  | nonFiniteInstallOffset
  /-- Raised by ADVANCE(n) when its precondition `n ≤ LEN − CURSOR` fails (R74). Safe. -/
  | advancePastEnd
  /-- Raised by READ_U16_LE, DECODE_BLOCK, EXTRACT_MULTI and EXTRACT_SINGLE on a byte sequence too short for the bytes the
  rule reads (R110 "`offset + 2 ≤ |buf|`", R125 "`o + 6 ≤ |f|`", R129, R130). Safe. -/
  | readOutsideFrame
  /-- Raised by the fetch of an operation word that no decoder reads (R8: 0xF "(unassigned)"). Safe. -/
  | undecodable (e : DecodeError)
deriving DecidableEq, Repr

/-- The state. The first block is the architectural state of 10_state.md's summary table, LEN being the length of `buf`
(R11); then the engine's parameters, the host's inputs, and the model's own fields. -/
structure State where
  /-- `BUF` (R10), oldest byte first. -/
  buf : List Byte
  /-- `CURSOR` (R12), the next unread offset: the block's program counter. -/
  cursor : Nat
  /-- `SLOT[1..3]` (R13). -/
  slots : Slots
  /-- `NEAREST` (R17); 0 is "none yet". -/
  nearest : F
  /-- `FRAMES_PARSED` (R15). -/
  framesParsed : Nat
  /-- `FRAMES_BAD` (R15). -/
  framesBad : Nat
  /-- `BYTES_PENDING` (R16). -/
  bytesPending : U16
  /-- `LOOP_DURATION_MS` (R16). -/
  loopDurationMs : U16
  /-- `LAST_SEEN` (R18); `none` is "never". -/
  lastSeen : Option TS
  /-- The open parameters of R5, fixed for the machine. -/
  params : Params
  /-- `RX` (R19, R22, R33): the bytes that have arrived and are not ingested, oldest first. -/
  rx : List Byte
  /-- `INSTALL_OFFSET_DEG` (R19): the host's input. -/
  installOffsetDeg : InstallAngle
  /-- The model's own: how many draws have been taken (log entry 5). -/
  draws : Nat
  /-- The model's own: what the last operation that returns a value returned (log entry 8). -/
  result : OpResult
  /-- The model's own: the event history of R7, newest first (log entry 9). -/
  events : List Event
  /-- The model's own: what is to run, next first (log entry 7). -/
  agenda : List Task
deriving DecidableEq, Repr

/-- All three slots absent (R146, R180). -/
def Slots.allAbsent : Slots := { s1 := none, s2 := none, s3 := none }

/-- The machine right after RESET (R180, R181), with the parameters at the values R5 gives, and the inputs and the model's
own fields at the values log entries 1, 4, 5, 7, 8 and 9 name. -/
def State.reset : State where
  buf := []
  cursor := 0
  slots := Slots.allAbsent
  nearest := 0
  framesParsed := 0
  framesBad := 0
  bytesPending := 0
  loopDurationMs := 0
  lastSeen := none
  params := Params.spec
  rx := []
  installOffsetDeg := .finite 0
  draws := 0
  result := .none
  events := []
  agenda := []

end Sys2Proof.Machine
end

