-- ==== Sys2Proof/Machine/Memory.lean ====
section
/-! DEFINITION. Memory as data. BUF is the abstract byte sequence itself (10_state.md R10; 20_memory.md R45: "a model that
keeps BUF as a list is exact"), viewed here as cells by logical offset; the cells of the physical store of R45 are a sparse
list in canonical form. -/

namespace Sys2Proof.Machine

/-- The addresses of the cells are strictly rising. -/
def risingFrom : Nat → List Host.Cell → Bool
  | _, [] => true
  | a, c :: cs => decide (a ≤ c.1) && risingFrom (c.1 + 1) cs

/-! ### The logical buffer space (R30) -/

/-- BUF: the byte at logical offset `a` is `m[a]?`; an offset outside `0 .. LEN−1` does not exist (R30). -/
abbrev Memory := List Byte

/-- The cells of BUF from logical offset `a` on. -/
def Memory.cellsFrom : Nat → Memory → List Host.Cell
  | _, [] => []
  | a, b :: m => (a, b) :: Memory.cellsFrom (a + 1) m

/-- The bytes of BUF as (logical offset, byte) cells. -/
def Memory.cells (m : Memory) : List Host.Cell := Memory.cellsFrom 0 m

/-- The form BUF keeps: its cells rise from offset 0, and it fits the physical store (R11, R45). -/
def Memory.wf (p : Params) (m : Memory) : Bool := risingFrom 0 m.cells && p.fits m.length

/-! ### The physical cells `MEM` (R45) -/

/-- What a physical cell reads as before anything is stored in it: DESIGN CHOICE 0, log entry 10. No rule reads such a
cell. -/
def blankByte : Byte := 0x00#8

/-- A cell list in canonical form: rising addresses, no cell that reads as an unlisted one would. -/
def cellsWf (cs : List Host.Cell) : Bool := risingFrom 0 cs && cs.all (fun c => c.2 != blankByte)

/-- The byte at a physical address. -/
def readCell (cs : List Host.Cell) (a : Nat) : Byte :=
  match cs with
  | [] => blankByte
  | c :: cs => if c.1 = a then c.2 else readCell cs a

/-- A cell for `b` at address `a`, unless it would read so unlisted. -/
def consCell (a : Nat) (b : Byte) (cs : List Host.Cell) : List Host.Cell :=
  if b = blankByte then cs else (a, b) :: cs

/-- `MEM[a] <- b` on a rising list of cells. -/
def writeCell (cs : List Host.Cell) (a : Nat) (b : Byte) : List Host.Cell :=
  match cs with
  | [] => consCell a b []
  | c :: cs =>
    if a < c.1 then consCell a b (c :: cs)
    else if a = c.1 then consCell a b cs
    else c :: writeCell cs a b

end Sys2Proof.Machine
end

