-- ==== Sys2Proof/Machine/Ops.lean ====
section
/-! DEFINITION. The named operations over buffer, cursor, slots and counters that the meanings are built from: the primitives
of 00_scope.md R7. The block has no exceptions: there is no trap entry and no return from one (60_exceptions.md R160, R170);
an anomaly is an event, recorded by `recordEvent` in the step that handles it (R161). -/

namespace Sys2Proof.Machine

/-- The outcome of an operation on this machine. -/
abbrev Out := Host.Outcome State Fault Refusal

/-- Each operation sees the complete effect of every earlier one (R40); a stop ends the sequence. -/
def andThen (o : Out) (k : State → Out) : Out :=
  match o with
  | .next s => k s
  | .fault r => .fault r
  | .refused r => .refused r

/-! ### Buffer and cursor -/

/-- `LEN = |BUF|` (R11). -/
def State.len (s : State) : Nat := s.buf.length

/-- `U = LEN − CURSOR`, the unread count (R90). -/
def State.unread (s : State) : Nat := s.len - s.cursor

/-- The view: the unread bytes `BUF[CURSOR..LEN)` addressed frame-relative (R76). -/
def State.view (s : State) : List Byte := s.buf.drop s.cursor

/-- One byte of BUF by logical offset; there is none outside `0 .. LEN−1` (R30). -/
def State.readByte (s : State) (a : Nat) : Option Byte := s.buf[a]?

/-- `MemRead(a, 1)` (R7). -/
def memRead1 (a : Nat) (s : State) : Option Byte := s.readByte a

/-- `MemRead(a, 2) = BUF[a] + 256·BUF[a+1]` (R7, R34). -/
def memRead2 (a : Nat) (s : State) : Option U16 :=
  match s.readByte a, s.readByte (a + 1) with
  | some lo, some hi => some (lo.setWidth 16 + 256#16 * hi.setWidth 16)
  | _, _ => none

/-- `MemAppend(b)`: `BUF <- BUF ++ [b]; LEN <- LEN + 1` (R7). -/
def memAppend (s : State) (b : Byte) : State := { s with buf := s.buf ++ [b] }

/-- `DropFront(d)`, precondition `d ≤ CURSOR` (R75). -/
def dropFront (d : Nat) (s : State) : State := { s with buf := s.buf.drop d, cursor := s.cursor - d }

/-- `CURSOR <- CURSOR + n` under its precondition `n ≤ LEN − CURSOR` (R74). -/
def advanceBy (n : Nat) (s : State) : Out :=
  if n ≤ s.unread then .next { s with cursor := s.cursor + n } else .refused .advancePastEnd

/-! ### The byte source (R33) -/

/-- "bytes available": a query with no side effect. -/
def rxAvailable (s : State) : Nat := s.rx.length

/-- "read one byte": destructive, in arrival order. -/
def rxReadOne (s : State) : Option (Byte × State) :=
  match s.rx with
  | [] => none
  | b :: rest => some (b, { s with rx := rest })

/-- The bulk drain call: every byte RX holds. -/
def rxDrain (s : State) : List Byte × State := (s.rx, { s with rx := [] })

/-! ### Slots, counters, samples -/

/-- `x[i]`: read of target slot `SLOT[i]` (R7). -/
def State.slot (s : State) : TargetIdx → Slot
  | .t1 => s.slots.s1
  | .t2 => s.slots.s2
  | .t3 => s.slots.s3

/-- `x[i] <- v`: the slot "overwritten wholesale" (R7, R14). -/
def setSlot (j : TargetIdx) (t : Slot) (s : State) : State :=
  match j with
  | .t1 => { s with slots := { s.slots with s1 := t } }
  | .t2 => { s with slots := { s.slots with s2 := t } }
  | .t3 => { s with slots := { s.slots with s3 := t } }

/-- The cycle-start clear: all slots absent, NEAREST the sentinel 0 (R146). -/
def clearTargets (s : State) : State := { s with slots := Slots.allAbsent, nearest := 0 }

/-- `FRAMES_PARSED <- FRAMES_PARSED + 1`, refused at the top of a finite width (R15, D6). -/
def bumpParsed (s : State) : Out :=
  if s.params.counts (s.framesParsed + 1) then .next { s with framesParsed := s.framesParsed + 1 }
  else .refused .counterOverflow

/-- `FRAMES_BAD <- FRAMES_BAD + 1`, refused at the top of a finite width (R15, D6). -/
def bumpBad (s : State) : Out :=
  if s.params.counts (s.framesBad + 1) then .next { s with framesBad := s.framesBad + 1 }
  else .refused .counterOverflow

/-- `LAST_SEEN <- NOW`, a draw (R133). -/
def stampLastSeen (s : State) : State :=
  { s with lastSeen := some (Config.NOW s.draws), draws := s.draws + 1 }

/-- `LOOP_DURATION_MS <- dur`, a draw (R148). -/
def sampleDuration (s : State) : State :=
  { s with loopDurationMs := Config.duration s.draws, draws := s.draws + 1 }

/-- `event <Name>(info)`: recorded in the event history, read by no rule (R7). -/
def recordEvent (e : Event) (s : State) : State := { s with events := e :: s.events }

/-- The value an operation returns. -/
def returnValue (r : OpResult) (s : State) : State := { s with result := r }

end Sys2Proof.Machine
end

