-- ==== Sys2Proof/Machine/Flags.lean ====
section
/-! DEFINITION. The block's flags (00_scope.md R8): the `present` flag of a target (R126) and the synchronizer's verdict on the
unread bytes (R91), with the named states it passes through (R92). -/

namespace Sys2Proof.Machine

/-- Presence on decoded values: "at least one of the three decoded raw signed values is non-zero" (R126). -/
def presentOnDecoded (xmm ymm vcm : Int) : Bool := xmm != 0 || ymm != 0 || vcm != 0

/-- The alternative test kept as PRESENT_ON_RAW: "present iff any raw value non-zero" (R126, C2). -/
def presentOnRawWords (x y v : U16) : Bool := x != 0 || y != 0 || v != 0

/-- The `n` bytes of a window from frame-relative offset `k` on. -/
def bytesAt (w : List Byte) (k n : Nat) : List Byte := (w.drop k).take n

/-- SYNC_CLASSIFY(U, w): the tests of R91 "in exactly this order". -/
def syncClassify (U : Nat) (w : List Byte) : Verdict :=
  if U < Config.MIN_UNREAD then .needMore
  else if bytesAt w 0 4 ≠ Config.HDR then .skip1 false
  else if Config.LEN_MULTI ≤ U ∧ bytesAt w Config.TRL_OFF_MULTI 2 = Config.TRL then .frame .multi
  else if Config.LEN_SINGLE ≤ U ∧ bytesAt w Config.TRL_OFF_SINGLE 2 = Config.TRL then .frame .single
  else if Config.LEN_MULTI ≤ U then .skip1 true
  else .needMore

/-- The named states one classification passes through (R92). -/
def syncPath (U : Nat) (w : List Byte) : List SyncState :=
  if U < Config.MIN_UNREAD then [.scanning, .needMore]
  else if bytesAt w 0 4 ≠ Config.HDR then [.scanning, .garbage]
  else .scanning :: .headerFound ::
    (match syncClassify U w with
     | .frame kind => [.frameReady kind]
     | .skip1 _ => [.garbage]
     | .needMore => [.needMore])

/-- The window SYNC_CLASSIFY sees: the first `min(U, 30)` unread bytes (R90). -/
def State.window (s : State) : List Byte := s.view.take Config.LEN_MULTI

/-- The verdict on what stands at CURSOR. -/
def State.verdict (s : State) : Verdict := syncClassify s.unread s.window

end Sys2Proof.Machine
end

