-- ==== Sys2Proof/Machine/Numeric.lean ====
section
/-! DEFINITION. The numbers of the codec and the extractor in `F` (42_fixedpoint_codec.md R116; 43_target_extractor.md R127,
R128, R131). A value that is rational is stored exactly; an irrational range or bearing is stored as a rational near it, off
by a free error within the source's tolerance (log entry 3). -/

namespace Sys2Proof.Machine

/-- A free error `e` held within ±`bound`. -/
def boundedError (bound e : F) : F :=
  if e < -bound then -bound else if bound < e then bound else e

/-- How far a stored irrational value may lie from its rational stand-in: the tolerance and the stand-in's own distance. -/
def storedErrorBound : F := Config.fltTolerance + Config.approxSlack

/-! ### Range (R127) -/

/-- The largest `r` with `r² ≤ n`, bit by bit from bit `k − 1` down, above the bits already in `r`. -/
def isqrtBits (n : Nat) : Nat → Nat → Nat
  | 0, r => r
  | k + 1, r => isqrtBits n k (if (r + 2 ^ k) * (r + 2 ^ k) ≤ n then r + 2 ^ k else r)

/-- The integer square root. -/
def isqrt (n : Nat) : Nat := isqrtBits n (n.log2 / 2 + 1) 0

/-- `xmm² + ymm²`. -/
def normSq (xmm ymm : Int) : Nat := xmm.natAbs * xmm.natAbs + ymm.natAbs * ymm.natAbs

/-- A rational within 1e-9 of `sqrt(n) / 1000`. -/
def rangeApprox (n : Nat) : F := (isqrt (n * 10 ^ 12) : F) / 10 ^ 9

/-- `range_m = sqrt(x_m² + y_m²)`, "the exact value being `sqrt(xmm² + ymm²) / 1000`" (R127). -/
def rangeM (xmm ymm : Int) : F :=
  let n := normSq xmm ymm
  let r := isqrt n
  if r * r = n then (r : F) / Config.MM_PER_M
  else rangeApprox n + boundedError storedErrorBound (Config.rangeError xmm ymm)

/-! ### Bearing (R128) -/

/-- 180 / π to within 1e-13, from π = 3.14159265358979… [PRESUMED, log entry 3]. -/
def degPerRad : F := 572957795130823 / 10 ^ 13

/-- Ten terms of the arctangent's power series, for `0 ≤ u ≤ 3/7` [PRESUMED, log entry 3]. -/
def atanSeries (u : F) : F :=
  let z := u * u
  u * (1 - z * (1 / 3 - z * (1 / 5 - z * (1 / 7 - z * (1 / 9 - z * (1 / 11 - z * (1 / 13 - z * (1 / 15 - z * (1 / 17
    - z * (1 / 19))))))))))

/-- The angle in degrees of the point `(hi, lo)`, `0 < lo < hi`: directly for small slopes, else as 45 degrees less the angle
of slope `(hi − lo) / (hi + lo)`. -/
def octantApprox (hi lo : Nat) : F :=
  if 5 * lo ≤ 2 * hi then degPerRad * atanSeries ((lo : F) / hi)
  else 45 - degPerRad * atanSeries (((hi : F) - lo) / (hi + lo))

/-- The angle in degrees of the point `(a, b)` of the first quadrant, off the axes and the diagonal. -/
def quadrantApprox (a b : Nat) : F := if b < a then octantApprox a b else 90 - octantApprox b a

/-- An angle of the first quadrant carried to the quadrant of `(x, y)`. -/
def toQuadrant (x y : Int) (deg : F) : F :=
  let deg := if x < 0 then 180 - deg else deg
  if y < 0 then -deg else deg

/-- A rational within 1e-6 of the angle of `(x, y)` in degrees. -/
def bearingApprox (x y : Int) : F := toQuadrant x y (quadrantApprox x.natAbs y.natAbs)

/-- `atan2deg(y, x)` of R128: on the axes and the diagonals the angle is rational and exact, 180 and never −180 on the
negative x axis; at the origin it is `ATAN2DEG_00`. -/
def atan2Deg (y x : Int) : F :=
  if x = 0 ∧ y = 0 then Config.ATAN2DEG_00
  else if y = 0 then (if x < 0 then 180 else 0)
  else if x = 0 then (if y < 0 then -90 else 90)
  else if x.natAbs = y.natAbs then toQuadrant x y 45
  else bearingApprox x y + boundedError storedErrorBound (Config.bearingError x y)

/-! ### Normalisation (R131) -/

/-- NORMALISE: "one conditional correction by a full turn, exactly as written". -/
def normalise (b : F) : F :=
  if 180 < b then b - 360 else if b < -180 then b + 360 else b

end Sys2Proof.Machine
end

