-- ==== Sys2Proof/Machine/Operands.lean ====
section
/-! DEFINITION. From the bytes of a frame copy to the values of a target: the codec's functions (42_fixedpoint_codec.md) and the
pure part of the extractor (43_target_extractor.md). -/

namespace Sys2Proof.Machine

/-! ### FixedPoint Codec -/

/-- READ_U16_LE: `zext_16(buf[offset]) + 256 * zext_16(buf[offset + 1])` (R110). -/
def readU16LE (buf : List Byte) (offset : Nat) : U16 :=
  (buf.getD offset 0).setWidth 16 + 256#16 * (buf.getD (offset + 1) 0).setWidth 16

/-- DECODE_SIGNED: bit 15 clear means negative, bits 14..0 are the magnitude (R111). -/
def decodeSigned (raw : U16) : Int :=
  let negative := raw &&& 0x8000#16 == 0#16
  let magnitude : Int := (raw &&& 0x7FFF#16).toNat
  if negative then -magnitude else magnitude

/-- TO_METRES(mm) = mm / 1000 (R113). -/
def toMetres (mm : Int) : F := (mm : F) / Config.MM_PER_M

/-- TO_MPS(cm) = cm / 100 (R114). -/
def toMps (cm : Int) : F := (cm : F) / Config.CM_PER_M

/-- The operands for which R113 and R114 state a result: "in −32767..32767 (a DECODE_SIGNED result)". -/
def inSignedRange (n : Int) : Bool := decide (-32767 ≤ n) && decide (n ≤ 32767)

/-- The result of a scaling: the quotient where the rule states one, else a free value (log entry 19). -/
def scaled (n : Int) (quotient free : F) : F := if inSignedRange n then quotient else free

/-- `sm(n)`, the encoder inverse to DECODE_SIGNED, for building frames (R63, R115). -/
def sm (n : Int) : U16 :=
  if 0 < n then 0x8000#16 + BitVec.ofNat 16 n.toNat else BitVec.ofNat 16 n.natAbs

/-! ### Target Extractor -/

/-- The `present` flag of a block's three words under the parameter PRESENT_ON_RAW (R126). -/
def blockPresent (onRaw : Bool) (x y v : U16) : Bool :=
  if onRaw then presentOnRawWords x y v
  else presentOnDecoded (decodeSigned x) (decodeSigned y) (decodeSigned v)

/-- The record of three words (R125). -/
def recordOf (x y v : U16) : TargetRecord where
  x_m := toMetres (decodeSigned x)
  y_m := toMetres (decodeSigned y)
  speed_mps := toMps (decodeSigned v)
  range_m := rangeM (decodeSigned x) (decodeSigned y)
  bearing_deg := atan2Deg (decodeSigned y) (decodeSigned x)

/-- A target from its three raw words, or nothing (R125, R126). -/
def targetOf (onRaw : Bool) (x y v : U16) : Slot :=
  if blockPresent onRaw x y v then some (recordOf x y v) else none

/-- DECODE_BLOCK(f, o) (R125). -/
def decodeBlock (onRaw : Bool) (f : List Byte) (o : Nat) : Slot :=
  targetOf onRaw (readU16LE f o) (readU16LE f (o + 2)) (readU16LE f (o + 4))

/-- EXTRACT_MULTI(f): "no install-angle correction applied to multi-target frames" (R129). -/
def extractMulti (onRaw : Bool) (f : List Byte) : Slots where
  s1 := decodeBlock onRaw f TargetIdx.t1.blkOff
  s2 := decodeBlock onRaw f TargetIdx.t2.blkOff
  s3 := decodeBlock onRaw f TargetIdx.t3.blkOff

/-- The install correction of one present target; a non-finite angle is outside the spec (R130, R131, U10). -/
def correctBearing (angle : InstallAngle) (t : TargetRecord) : Except Refusal TargetRecord :=
  match angle with
  | .finite deg => .ok { t with bearing_deg := normalise (t.bearing_deg + deg) }
  | .nonFinite => .error .nonFiniteInstallOffset

/-- EXTRACT_SINGLE(f, install_offset_deg) (R130). -/
def extractSingle (onRaw : Bool) (f : List Byte) (angle : InstallAngle) : Except Refusal Slot :=
  match decodeBlock onRaw f TargetIdx.t1.blkOff with
  | none => .ok none
  | some t => (correctBearing angle t).map some

end Sys2Proof.Machine
end

