-- ==== Sys2Proof/Machine/Codec.lean ====
section
/-! DEFINITION. FixedPoint Codec: READ_U16_LE, DECODE_SIGNED, TO_METRES, TO_MPS (42_fixedpoint_codec.md). Pure functions: they
write nothing but the value they return. -/

namespace Sys2Proof.Machine

/-- READ_U16_LE(buf, offset), precondition `offset + 2 ≤ |buf|` (R110). -/
def execReadU16Le (buf : List Byte) (offset : Nat) (s : State) : Out :=
  if offset + 2 ≤ buf.length then .next (returnValue (.u16 (readU16LE buf offset)) s)
  else .refused .readOutsideFrame

/-- DECODE_SIGNED(raw) (R111). -/
def execDecodeSigned (raw : U16) (s : State) : Out := .next (returnValue (.int (decodeSigned raw)) s)

/-- TO_METRES(mm) (R113). -/
def execToMetres (mm : Int) (s : State) : Out :=
  .next (returnValue (.real (scaled mm (toMetres mm) (Config.metresOutsideRange mm))) s)

/-- TO_MPS(cm) (R114). -/
def execToMps (cm : Int) (s : State) : Out :=
  .next (returnValue (.real (scaled cm (toMps cm) (Config.mpsOutsideRange cm))) s)

end Sys2Proof.Machine
end

