-- ==== Sys2Proof/Machine/BufferManager.lean ====
section
/-! DEFINITION. Stream Buffer Manager: INGEST, PENDING_UNREAD, ENFORCE_CAPACITY, COMPACT, ADVANCE (40_buffer_manager.md). -/

namespace Sys2Proof.Machine

/-- INGEST: every byte RX holds is appended in order; refused when it would not fit a finite PHYS_CAP (R70). -/
def ingest (s : State) : Out :=
  let taken := rxDrain s
  if s.params.fits (s.len + taken.1.length) then .next (taken.1.foldl memAppend taken.2)
  else .refused .physCapExceeded

/-- PENDING_UNREAD (R71): the low 16 bits of `LEN − CURSOR`, and 0 where CURSOR exceeded LEN. -/
def pendingUnread (s : State) : U16 :=
  if s.cursor ≤ s.len then BitVec.ofNat 16 (s.len - s.cursor) else 0

/-- The bytes ENFORCE_CAPACITY evicts: `LEN − max`, "further clamped to `≤ cursor`" (R72). -/
def evicted (max : Nat) (s : State) : Nat := min (s.len - max) s.cursor

/-- ENFORCE_CAPACITY(max): FRAMES_BAD moves whenever `LEN > max`, also when nothing can be evicted (R72, D23). -/
def enforceCapacity (max : Nat) (s : State) : Out :=
  if max < s.len then
    andThen (bumpBad (dropFront (evicted max s) s)) fun t => .next (recordEvent (.overflow (evicted max s)) t)
  else .next s

/-- COMPACT: the consumed part goes when it is more than half of the buffer (R73). -/
def compact (s : State) : State :=
  if 0 < s.cursor ∧ s.len < 2 * s.cursor then recordEvent .compacted (dropFront s.cursor s) else s

/-- Line 15 of R145: BYTES_PENDING <- PENDING_UNREAD() (R149). -/
def samplePending (s : State) : State := { s with bytesPending := pendingUnread s }

/-! ### The meanings -/

def execIngest (s : State) : Out := ingest s

def execPendingUnread (s : State) : Out := .next (returnValue (.u16 (pendingUnread s)) s)

def execEnforceCapacity (s : State) : Out := enforceCapacity Config.MAX_LEN s

def execCompact (s : State) : Out := .next (compact s)

def execAdvance (n : Stride) (s : State) : Out := advanceBy n.bytes s

end Sys2Proof.Machine
end

