-- ==== Sys2Proof/Machine/Extractor.lean ====
section
/-! DEFINITION. Target Extractor: DECODE_BLOCK, EXTRACT_MULTI, EXTRACT_SINGLE and the bookkeeping of a decoded frame
(43_target_extractor.md). -/

namespace Sys2Proof.Machine

/-- The `NoTarget` event of a block that decodes to nothing (R161, R166). -/
def noteAbsent (j : TargetIdx) (t : Slot) (s : State) : State :=
  match t with
  | none => recordEvent (.noTarget j) s
  | some _ => s

/-- "if NEAREST = 0 or t.range_m < NEAREST then NEAREST <- t.range_m": the new NEAREST (R132). -/
def nearer (nearest r : F) : F := if nearest = 0 ∨ r < nearest then r else nearest

def updateNearest (r : F) (s : State) : State := { s with nearest := nearer s.nearest r }

/-- One block's result to its slot: a record overwrites it and feeds NEAREST, an absent block leaves it untouched (R132,
R134). -/
def storeTarget (j : TargetIdx) (t : Slot) (s : State) : State :=
  match t with
  | none => recordEvent (.noTarget j) s
  | some r => updateNearest r.range_m (setSlot j (some r) s)

/-- The three results of EXTRACT_MULTI to the three slots, in block order (R134, R169). -/
def storeTargets (ts : Slots) (s : State) : State :=
  storeTarget .t3 ts.s3 (storeTarget .t2 ts.s2 (storeTarget .t1 ts.s1 s))

/-- Extraction of a frame copy `f` and the slots it writes (R129, R130, R134). -/
def extractInto (kind : FrameKind) (f : List Byte) (s : State) : Out :=
  match kind with
  | .multi => .next (storeTargets (extractMulti s.params.presentOnRaw f) s)
  | .single =>
    match extractSingle s.params.presentOnRaw f s.installOffsetDeg with
    | .ok t => .next (storeTarget .t1 t s)
    | .error r => .refused r

/-- Lines 10 to 13 of R145 for a frame whose copy `f` has been taken: advance, extract, write slots, update NEAREST, stamp
LAST_SEEN, count the frame (R133, R147). -/
def deliverFrame (kind : FrameKind) (f : List Byte) (s : State) : Out :=
  andThen (advanceBy kind.len s) fun s => andThen (extractInto kind f s) fun s => bumpParsed (stampLastSeen s)

/-! ### The meanings -/

/-- DECODE_BLOCK(f, BLK_OFF[j]), precondition `o + 6 ≤ |f|` (R125). -/
def execDecodeBlock (f : List Byte) (j : TargetIdx) (s : State) : Out :=
  if j.blkOff + Config.BLK_USED ≤ f.length then
    let t := decodeBlock s.params.presentOnRaw f j.blkOff
    .next (returnValue (.block t) (noteAbsent j t s))
  else .refused .readOutsideFrame

/-- EXTRACT_MULTI(f) on a 30-byte frame copy (R129). -/
def execExtractMulti (f : List Byte) (s : State) : Out :=
  if f.length = Config.LEN_MULTI then
    let ts := extractMulti s.params.presentOnRaw f
    .next (returnValue (.blocks ts) (noteAbsent .t3 ts.s3 (noteAbsent .t2 ts.s2 (noteAbsent .t1 ts.s1 s))))
  else .refused .readOutsideFrame

/-- EXTRACT_SINGLE(f, INSTALL_OFFSET_DEG) on a 14-byte frame copy (R130). -/
def execExtractSingle (f : List Byte) (s : State) : Out :=
  if f.length = Config.LEN_SINGLE then
    match extractSingle s.params.presentOnRaw f s.installOffsetDeg with
    | .ok t => .next (returnValue (.block t) (noteAbsent .t1 t s))
    | .error r => .refused r
  else .refused .readOutsideFrame

end Sys2Proof.Machine
end

