-- ==== Sys2Proof/Machine/Frames.lean ====
section
/-! DEFINITION. What the rows of the byte stream execute: the two frames (30_encoding.md R50; 43_target_extractor.md) and the
two skips (R56 rows 3 and 4, R91). -/

namespace Sys2Proof.Machine

/-- The session's reaction to SKIP1(counted): "`SKIP1(false)`: `ADVANCE(1)`; `SKIP1(true)`: `ADVANCE(1)` and `FRAMES_BAD <-
FRAMES_BAD + 1`" (R91; line 8 of R145). -/
def applySkip (counted : Bool) (s : State) : Out :=
  andThen (advanceBy 1 s) fun s =>
    if counted then andThen (bumpBad s) fun s => .next (recordEvent .corruptHeader s)
    else .next (recordEvent .desync s)

/-- MULTI: the copy of its 30 bytes is delivered (R129, R136, R147). -/
def execMulti (b1 b2 b3 : Block) (s : State) : Out := deliverFrame .multi (encode (.multi b1 b2 b3)) s

/-- SINGLE: the copy of its 14 bytes is delivered (R130, R136, R147). -/
def execSingle (b : Block) (s : State) : Out := deliverFrame .single (encode (.single b)) s

/-- CORRUPT_BYTE: the counted skip (R56 row 3, R163). -/
def execCorruptByte (s : State) : Out := applySkip true s

/-- GARBAGE_BYTE: "skips exactly one byte", whichever it is, and counts nothing (R56 row 4, R58, R162). -/
def execGarbageByte (_b : Byte) (s : State) : Out := applySkip false s

end Sys2Proof.Machine
end

