-- ==== Sys2Proof/Machine/Session.lean ====
section
/-! DEFINITION. Decode Session: RESET (70_reset_and_hazards.md R180) and DECODE_CYCLE (44_decode_session.md R145). -/

namespace Sys2Proof.Machine

/-- RESET writes the architectural state and nothing else: not RX, not the parameters, not the inputs (R180). -/
def resetArchitectural (s : State) : State :=
  { s with
    buf := []
    cursor := 0
    slots := Slots.allAbsent
    nearest := 0
    framesParsed := 0
    framesBad := 0
    bytesPending := 0
    loopDurationMs := 0
    lastSeen := none }

/-- The frame copy `BUF[CURSOR .. CURSOR + len)` (R136). -/
def State.frameCopy (s : State) (kind : FrameKind) : List Byte := s.view.take kind.len

/-- The drain loop, lines 4 to 13 of R145, to the first NEED_MORE. The fuel bounds the classifications (R96). -/
def drainLoop : Nat → State → Out
  | 0, s => .next s
  | fuel + 1, s =>
    match s.verdict with
    | .needMore => .next (recordEvent .incomplete s)
    | .skip1 counted => andThen (applySkip counted s) (drainLoop fuel)
    | .frame kind => andThen (deliverFrame kind (s.frameCopy kind) s) (drainLoop fuel)

/-- The drain loop with fuel for every unread byte and the final NEED_MORE (R96, R147). -/
def drain (s : State) : Out := drainLoop (s.unread + 1) s

/-- DECODE_CYCLE: the sixteen lines of R145, "the order is normative". -/
def decodeCycle (s : State) : Out :=
  andThen (ingest s) fun s =>
    andThen (enforceCapacity Config.MAX_LEN s) fun s =>
      andThen (drain (clearTargets s)) fun s =>
        .next (sampleDuration (samplePending (compact s)))

/-! ### The meanings -/

def execReset (s : State) : Out := .next (resetArchitectural s)

def execDecodeCycle (s : State) : Out := decodeCycle s

end Sys2Proof.Machine
end

