-- ==== Sys2Proof/Machine/Synchronizer.lean ====
section
/-! DEFINITION. Frame Synchronizer: SYNC_CLASSIFY (41_frame_synchronizer.md). -/

namespace Sys2Proof.Machine

/-- SYNC_CLASSIFY on the view at CURSOR: "Writes: nothing" but the verdict it returns (R91). -/
def execSyncClassify (s : State) : Out := .next (returnValue (.verdict s.verdict) s)

end Sys2Proof.Machine
end

