-- ==== Sys2Proof/Machine/Dispatch.lean ====
section
/-! DEFINITION. One arm per instruction. -/

namespace Sys2Proof.Machine

def exec (i : Instr) (s : State) : Host.Outcome State Fault Refusal :=
  match i with
  | .multi b1 b2 b3 => Sys2Proof.Machine.execMulti b1 b2 b3 s
  | .single b => Sys2Proof.Machine.execSingle b s
  | .corruptByte => Sys2Proof.Machine.execCorruptByte s
  | .garbageByte b => Sys2Proof.Machine.execGarbageByte b s
  | .reset => Sys2Proof.Machine.execReset s
  | .ingest => Sys2Proof.Machine.execIngest s
  | .pendingUnread => Sys2Proof.Machine.execPendingUnread s
  | .enforceCapacity => Sys2Proof.Machine.execEnforceCapacity s
  | .compact => Sys2Proof.Machine.execCompact s
  | .advance n => Sys2Proof.Machine.execAdvance n s
  | .syncClassify => Sys2Proof.Machine.execSyncClassify s
  | .readU16Le buf offset => Sys2Proof.Machine.execReadU16Le buf offset s
  | .decodeSigned raw => Sys2Proof.Machine.execDecodeSigned raw s
  | .toMetres mm => Sys2Proof.Machine.execToMetres mm s
  | .toMps cm => Sys2Proof.Machine.execToMps cm s
  | .decodeBlock f j => Sys2Proof.Machine.execDecodeBlock f j s
  | .extractMulti f => Sys2Proof.Machine.execExtractMulti f s
  | .extractSingle f => Sys2Proof.Machine.execExtractSingle f s
  | .decodeCycle => Sys2Proof.Machine.execDecodeCycle s

end Sys2Proof.Machine
end

