-- ==== Sys2Proof/Machine/Fetch.lean ====
section
/-! DEFINITION. What the engine runs next. An operation word is fetched from the agenda; inside a drain loop the fetch is at
CURSOR, where the unread bytes are decoded (10_state.md R12; 30_encoding.md R56). Lines 3, 15 and 16 of R145 have no op code
and run as inner steps. -/

namespace Sys2Proof.Machine

/-- What a fetch gives: an instruction and the state it runs in, an inner step already done, or a refusal. -/
inductive Fetched where
  | instr (i : Instr) (s : State)
  | inner (s : State)
  | stop (r : Refusal)
deriving DecidableEq, Repr

/-- The fetch. With nothing to run the block "is idle and holds its state" (R176). A drain loop stays on the agenda until the
unread bytes hold neither a frame nor a byte to skip (R96). -/
def fetch (s : State) : Fetched :=
  match s.agenda with
  | [] => .inner s
  | .word bytes :: rest =>
    match decodeWord bytes with
    | .ok i => .instr i { s with agenda := rest }
    | .error e => .stop (.undecodable e)
  | .clearTargets :: rest => .inner (clearTargets { s with agenda := rest })
  | .drain :: rest =>
    match decodeFrame s.view with
    | .ok i => .instr i s
    | .error _ => .inner (recordEvent .incomplete { s with agenda := rest })
  | .sample :: rest => .inner (sampleDuration (samplePending { s with agenda := rest }))

/-- DECODE_CYCLE in its single operations, in the order of R145: "steps a model may expose for finer proofs". -/
def cycleTasks : List Task :=
  [.word (encode .ingest), .word (encode .enforceCapacity), .clearTargets, .drain, .word (encode .compact), .sample]

/-- The unread region replaced by these bytes: what CURSOR points at next. -/
def placeUnread (bytes : List Byte) (s : State) : State := { s with buf := s.buf.take s.cursor ++ bytes }

/-- A table word put where the next step fetches it: a frame at CURSOR with the drain loop next on the agenda, an operation
word on the agenda itself. -/
def placeTableWord (s : State) (nbits w : Nat) : State :=
  if isFrameWord nbits then
    placeUnread (tableBytes nbits w) { s with agenda := .drain :: s.agenda }
  else { s with agenda := .word (tableOpWord (tableBytes nbits w)) :: s.agenda }

end Sys2Proof.Machine
end

