-- ==== Sys2Proof/Machine/Step.lean ====
section
/-! DEFINITION. One step of the engine: fetch, then execute (20_memory.md R40). -/

namespace Sys2Proof.Machine

/-- One step: run the instruction fetched, or the inner step. -/
def step (s : State) : Host.Outcome State Fault Refusal :=
  match fetch s with
  | .instr i t => exec i t
  | .inner t => .next t
  | .stop r => .refused r

/-- `s` with a word of the opcode table where `step` fetches its next instruction (log entry 7). -/
def State.withFetchWord (s : State) (nbits w : Nat) : State := placeTableWord s nbits w

end Sys2Proof.Machine
end

