-- ==== Sys2Proof/Machine/Ring.lean ====
section
/-! DEFINITION. The circular physical store of 20_memory.md R45, a realisation of BUF: no rule reads its HEAD, and
State keeps the abstract sequence. -/

namespace Sys2Proof.Machine

/-- `MEM[0 .. PHYS_CAP−1]`, `HEAD`, LEN and CURSOR (R45); `cap` is a finite PHYS_CAP. -/
structure Ring where
  cap : Nat
  mem : List Host.Cell
  head : Nat
  len : Nat
  cursor : Nat
deriving DecidableEq, Repr

namespace Ring

/-- "Logical offset `i` is physical index `(HEAD + i) mod PHYS_CAP`" (R45). -/
def physIndex (r : Ring) (i : Nat) : Nat := (r.head + i) % r.cap

/-- The byte at logical offset `i`. -/
def byteAt (r : Ring) (i : Nat) : Byte := readCell r.mem (r.physIndex i)

/-- The abstract sequence the ring stands for. -/
def toBuf (r : Ring) : List Byte := (List.range r.len).map r.byteAt

/-- `MemAppend(b)`, "allowed only if `LEN < PHYS_CAP`" (R45). -/
def append (b : Byte) (r : Ring) : Option Ring :=
  if r.len < r.cap then some { r with mem := writeCell r.mem (r.physIndex r.len) b, len := r.len + 1 } else none

/-- `DropFront(d)`: a pointer update that moves no byte (R45, R75). -/
def dropFront (d : Nat) (r : Ring) : Ring :=
  { r with head := (r.head + d) % r.cap, len := r.len - d, cursor := r.cursor - d }

/-- The empty ring of capacity `cap`. R45 gives HEAD only the range `0 .. PHYS_CAP−1`: DESIGN CHOICE 0, log entry 18. -/
def empty (cap : Nat) : Ring := { cap := cap, mem := [], head := 0, len := 0, cursor := 0 }

/-- HEAD is an index of MEM, LEN ≤ PHYS_CAP, CURSOR ≤ LEN, and MEM is canonical. -/
def wf (r : Ring) : Bool :=
  decide (r.head < r.cap) && decide (r.len ≤ r.cap) && decide (r.cursor ≤ r.len) && cellsWf r.mem

end Ring

end Sys2Proof.Machine
end

