-- ==== Sys2Proof/Machine/Stream.lean ====
section
/-! DEFINITION. The spec's notation for byte streams (30_encoding.md R63), for building frames and chunks. -/

namespace Sys2Proof.Machine

/-- An operand of a stream item: an integer, or `+0`, the zero with its sign bit set (R63). -/
inductive StreamNum where
  | val (n : Int)
  | plusZero
deriving DecidableEq, Repr

def StreamNum.word : StreamNum → U16
  | .val n => sm n
  | .plusZero => 0x8000#16

/-- `(x, y, v)` of R63: millimetres, millimetres, centimetres per second. -/
structure Triple where
  x : StreamNum
  y : StreamNum
  v : StreamNum
deriving DecidableEq, Repr

/-- The integers `(x, y, v)`. -/
def triple (x y v : Int) : Triple := { x := .val x, y := .val y, v := .val v }

/-- The block of a triple with ignored bytes `p q`. -/
def Triple.block (t : Triple) (p q : Byte) : Block where
  x := t.x.word
  y := t.y.word
  v := t.v.word
  pad0 := p
  pad1 := q

/-- A triple's block inside MULTI, or the all-zero block of `NONE` (R63). -/
def blockOfTriple : Option Triple → Block
  | some t => t.block 0 0
  | none => { x := 0, y := 0, v := 0, pad0 := 0, pad1 := 0 }

/-- One item of a stream (R63). -/
inductive StreamItem where
  | raw (bytes : List Byte)
  | single (t : Triple)
  | singlePad (t : Triple) (p q : Byte)
  | multi (t1 t2 t3 : Option Triple)
  | cut
deriving DecidableEq, Repr

/-- The bytes an item expands to; `CUT` is none. -/
def StreamItem.bytes : StreamItem → List Byte
  | .raw bytes => bytes
  | .single t => encode (.single (t.block 0 0))
  | .singlePad t p q => encode (.single (t.block p q))
  | .multi t1 t2 t3 => encode (.multi (blockOfTriple t1) (blockOfTriple t2) (blockOfTriple t3))
  | .cut => []

/-- A stream as the chunks of successive cycles, ended by each `CUT` (R63). -/
def chunks : List StreamItem → List (List Byte)
  | [] => [[]]
  | .cut :: items => [] :: chunks items
  | item :: items =>
    match chunks items with
    | [] => [item.bytes]
    | c :: cs => (item.bytes ++ c) :: cs

end Sys2Proof.Machine
end

