-- ==== Sys2Proof/Machine/HostPort.lean ====
section
/-! DEFINITION. What the host may do to the engine between cycles (60_exceptions.md R171; 10_state.md R19): deliver bytes, set the
install angle, issue RESET or DECODE_CYCLE, read the snapshot. -/

namespace Sys2Proof.Machine

/-- Bytes arrive in RX, after those already there (R33). -/
def State.deliver (bytes : List Byte) (s : State) : State := { s with rx := s.rx ++ bytes }

/-- The install angle of the coming cycle, "read fresh each cycle (not cached)" (R19). -/
def State.setInstallOffset (angle : InstallAngle) (s : State) : State := { s with installOffsetDeg := angle }

/-- An operation word issued behind everything already on the agenda. -/
def State.issue (i : Instr) (s : State) : State := { s with agenda := s.agenda ++ [.word (encode i)] }

/-- One invocation as the host makes it: bytes, angle, DECODE_CYCLE (R145, R171). -/
def State.invoke (chunk : List Byte) (angle : InstallAngle) (s : State) : State :=
  ((s.deliver chunk).setInstallOffset angle).issue .decodeCycle

/-- The outputs the host reads between cycles: the slots, the four diagnostics and LAST_SEEN (R171, R175). NEAREST is no
output (R17). -/
structure Snapshot where
  slots : Slots
  bytesPending : U16
  framesParsed : Nat
  framesBad : Nat
  loopDurationMs : U16
  lastSeen : Option TS
deriving DecidableEq, Repr

def State.snapshot (s : State) : Snapshot where
  slots := s.slots
  bytesPending := s.bytesPending
  framesParsed := s.framesParsed
  framesBad := s.framesBad
  loopDurationMs := s.loopDurationMs
  lastSeen := s.lastSeen

end Sys2Proof.Machine
end

