-- ==== Sys2Proof/Safety.lean ====
section
/-! DEFINITION. The invariants of 10_state.md R23 and what counts as a run of the engine under a host that keeps to
60_exceptions.md R171. -/

namespace Sys2Proof.Machine

/-- "At every point between two operations" (R23), with the bounds of the open parameters: CURSOR within BUF, BUF in its form
and within PHYS_CAP, the counters within CTR_W, NEAREST not negative, the parameters as R5 allows them. -/
structure State.Inv (s : State) : Prop where
  cursor_le_len : s.cursor ≤ s.len
  memory_wf : Memory.wf s.params s.buf = true
  params_wf : s.params.wf = true
  parsed_counts : s.params.counts s.framesParsed = true
  bad_counts : s.params.counts s.framesBad = true
  nearest_nonneg : 0 ≤ s.nearest

/-- What holds besides "at the end of every DECODE_CYCLE" (R23 (iv), (v); R78). -/
structure State.Boundary (s : State) : Prop where
  unread_le : s.unread ≤ 29
  cursor_le : s.cursor ≤ 29
  len_le : s.len ≤ 58
  pending : s.bytesPending.toNat = s.len - s.cursor

/-- The words the host may issue: "Only RESET and DECODE_CYCLE are issued by the host" (R8, R150). -/
def Task.hostIssued : Task → Bool
  | .word bytes => bytes == encode .reset || bytes == encode .decodeCycle
  | .clearTargets => false
  | .drain => false
  | .sample => false

/-- An agenda a host that keeps to R171 leaves. -/
def State.hostAgenda (s : State) : Bool := s.agenda.all Task.hostIssued

/-- The window byte `w[k] = BUF[CURSOR + k]` is there and is `b` (R90). -/
abbrev State.windowByte (s : State) (k : Nat) (b : Byte) : Prop := s.readByte (s.cursor + k) = some b

/-- `(w[0], w[1], w[2], w[3]) = (0xAA, 0xFF, 0x03, 0x00)` (R91). -/
abbrev State.headerHere (s : State) : Prop :=
  s.windowByte 0 0xAA#8 ∧ s.windowByte 1 0xFF#8 ∧ s.windowByte 2 0x03#8 ∧ s.windowByte 3 0x00#8

/-- `w[k] = 0x55 and w[k+1] = 0xCC` (R91). -/
abbrev State.trailerHere (s : State) (k : Nat) : Prop := s.windowByte k 0x55#8 ∧ s.windowByte (k + 1) 0xCC#8

/-- The bytes not yet consumed, in stream order: the unread region, then what RX still holds (R44). -/
def State.pendingStream (s : State) : List Byte := s.view ++ s.rx

/-! ### What a cycle meets -/

/-- The rows that stand one after another at the front of the unread bytes, up to the first wait, at most `fuel` of them
(30_encoding.md R56, 44_decode_session.md R147). -/
def rowsWithin : Nat → List Byte → List Instr
  | 0, _ => []
  | fuel + 1, w =>
    match decodeFrame w with
    | .ok i => i :: rowsWithin fuel (w.drop (encode i).length)
    | .error _ => []

/-- All of them: every row consumes a byte at least (R96). -/
def rowsOf (w : List Byte) : List Instr := rowsWithin w.length w

/-- The rows DECODE_CYCLE meets: those of the unread bytes with all of RX behind them (R145). -/
def State.cycleRows (s : State) : List Instr := rowsOf ((s.buf ++ s.rx).drop s.cursor)

/-- How many frames a cycle decodes: the rows of more than one byte (R56; 95_test_vectors.md 2.5). -/
def State.cycleFrames (s : State) : Nat := s.cycleRows.countP fun i => decide (1 < (encode i).length)

/-- How far a cycle moves FRAMES_BAD: one for each corrupt header byte, and one where LEN exceeds 512 after INGEST
(R169; 95_test_vectors.md 2.5). -/
def State.cycleBad (s : State) : Nat :=
  s.cycleRows.count .corruptByte + if Config.MAX_LEN < s.len + s.rx.length then 1 else 0

/-- Both counters have room, within a finite CTR_W, for what a cycle adds to them (D6, U2). -/
def State.CycleHasRoom (s : State) : Prop :=
  (s.cycleFrames = 0 ∨ s.params.counts (s.framesParsed + s.cycleFrames) = true) ∧
    (s.cycleBad = 0 ∨ s.params.counts (s.framesBad + s.cycleBad) = true)

/-- The install angle is a finite number, or a cycle meets no present single target to correct by it (R130, R131, U10). -/
def State.CycleAngleUsable (s : State) : Prop :=
  (∃ deg, s.installOffsetDeg = .finite deg) ∨
    ∀ b, .single b ∈ s.cycleRows → targetOf s.params.presentOnRaw b.x b.y b.v = none

/-- Two blocks that differ at most in their two ignored bytes (30_encoding.md R59). -/
def SameWords (b c : Block) : Prop := b.x = c.x ∧ b.y = c.y ∧ b.v = c.v

/-- Two rows of the byte stream that differ at most in ignored bytes (R59). -/
inductive SameRead : Instr → Instr → Prop where
  | same (i : Instr) : SameRead i i
  | single {b c : Block} (h : SameWords b c) : SameRead (.single b) (.single c)
  | multi {b1 b2 b3 c1 c2 c3 : Block} (h1 : SameWords b1 c1) (h2 : SameWords b2 c2) (h3 : SameWords b3 c3) :
      SameRead (.multi b1 b2 b3) (.multi c1 c2 c3)

/-- Two byte sequences of one length that agree at every offset but the listed ones. -/
def AgreeOff (ignored : List Nat) (f g : List Byte) : Prop :=
  f.length = g.length ∧ ∀ k, k ∉ ignored → f[k]? = g[k]?

/-! ### Runs -/

/-- `t` is reached from `s` in `n` steps, none refused. -/
inductive StepsTo : Nat → State → State → Prop where
  | here (s : State) : StepsTo 0 s s
  | more {n : Nat} {s m t : State} (first : step s = .next m) (rest : StepsTo n m t) : StepsTo (n + 1) s t

/-- A state the machine comes to after RESET: by its own steps, and by the host's deliveries, install angles and invocations
between them (R171, R180). -/
inductive Reachable : State → Prop where
  | start : Reachable State.reset
  | step {s t : State} (at_s : Reachable s) (h : Machine.step s = .next t) : Reachable t
  | deliver {s : State} (bytes : List Byte) (at_s : Reachable s) : Reachable (s.deliver bytes)
  | angle {s : State} (a : InstallAngle) (at_s : Reachable s) : Reachable (s.setInstallOffset a)
  | reset {s : State} (at_s : Reachable s) : Reachable (s.issue .reset)
  | cycle {s : State} (at_s : Reachable s) : Reachable (s.issue .decodeCycle)

end Sys2Proof.Machine
end

