-- ==== Sys2Proof/Certificates/Slice0/Obligations.lean ====
section
/-! DEFINITION. The statements for the provers. Each says which rule of the spec it formalises. -/

open Sys2Proof Sys2Proof.Machine

/-! ### Decoding and encoding -/

/-- 30_encoding.md R51, R52, R56; 00_scope.md R8 (operand bytes: the model's, log entry 6): words written out from the spec's
encodings decode to the instructions they stand for. -/
def Obligations.WrittenWordsDecode : Prop :=
  decodeFrame [0xAA, 0xFF, 0x03, 0x00, 0xD2, 0x84, 0xF4, 0x01, 0xC8, 0x80, 0x11, 0x22, 0x55, 0xCC] =
      .ok (.single { x := 0x84D2, y := 0x01F4, v := 0x80C8, pad0 := 0x11, pad1 := 0x22 }) ∧
    decodeFrame [0xAA, 0xFF, 0x03, 0x00, 0x64, 0x80, 0xC8, 0x80, 0x05, 0x80, 0x00, 0x00, 0x55, 0xCC, 0x2C, 0x01,
        0x07, 0x80, 0x00, 0x00, 0x01, 0x80, 0x02, 0x80, 0x03, 0x80, 0x00, 0x00, 0x55, 0xCC] =
      .ok (.multi { x := 0x8064, y := 0x80C8, v := 0x8005, pad0 := 0, pad1 := 0 }
        { x := 0xCC55, y := 0x012C, v := 0x8007, pad0 := 0, pad1 := 0 }
        { x := 0x8001, y := 0x8002, v := 0x8003, pad0 := 0, pad1 := 0 }) ∧
    decodeFrame [0xAA, 0xFF, 0x03, 0x01, 0, 0, 0, 0, 0, 0, 0, 0, 0, 0] = .ok (.garbageByte 0xAA) ∧
    decodeFrame ([0xAA, 0xFF, 0x03, 0x00] ++ List.replicate 26 0x11) = .ok .corruptByte ∧
    decodeFrame ([0xAA, 0xFF, 0x03, 0x00] ++ List.replicate 25 0x11) = .error .needMore ∧
    decodeWord [0x00] = .ok .reset ∧ decodeWord [0x01] = .ok .ingest ∧ decodeWord [0x02] = .ok .pendingUnread ∧
    decodeWord [0x03] = .ok .enforceCapacity ∧ decodeWord [0x04] = .ok .compact ∧
    decodeWord [0x05, 0x02] = .ok (.advance .thirty) ∧ decodeWord [0x06] = .ok .syncClassify ∧
    decodeWord [0x08, 0x32, 0x80] = .ok (.decodeSigned 0x8032) ∧ decodeWord [0x0E] = .ok .decodeCycle ∧
    decodeWord [0x0F] = .error .unassignedCode

/-- 00_scope.md R8, 92_eei_decisions.md D12 (operand bytes: the model's, log entry 6): every well-formed operation word
decodes to the operation it encodes, whatever follows it, with every operand at every value. -/
def Obligations.OperationWordsRoundTrip : Prop :=
  ∀ i : Instr, i.wellFormed = true → i.isOp = true →
    decodeWord (encode i) = .ok i ∧ ∀ rest, decodeOp (encode i ++ rest) = .ok (i, rest)

/-- 30_encoding.md R51, R52, R56, R61: a multi frame decodes to itself whatever follows it; a single frame does unless a
trailer at offset 28 makes it a multi frame's front; the two skipped bytes do where R56 has them. -/
def Obligations.FramesRoundTrip : Prop :=
  (∀ b1 b2 b3 rest, decodeFrame (encode (.multi b1 b2 b3) ++ rest) = .ok (.multi b1 b2 b3)) ∧
    (∀ b rest, (rest.drop 14).take 2 ≠ [0x55, 0xCC] → decodeFrame (encode (.single b) ++ rest) = .ok (.single b)) ∧
    (∀ b rest, 13 ≤ rest.length → (encode (.garbageByte b) ++ rest).take 4 ≠ [0xAA, 0xFF, 0x03, 0x00] →
      decodeFrame (encode (.garbageByte b) ++ rest) = .ok (.garbageByte b)) ∧
    ∀ rest, 29 ≤ rest.length → rest.take 3 = [0xFF, 0x03, 0x00] → (rest.drop 27).take 2 ≠ [0x55, 0xCC] →
      (rest.drop 11).take 2 ≠ [0x55, 0xCC] → decodeFrame (encode .corruptByte ++ rest) = .ok .corruptByte

/-- 30_encoding.md R51, R52, R56: whatever decodes at the front of the unread bytes is a row of the byte stream, and its
encoding is exactly the bytes it consumes: no bit of a frame is dropped or moved. -/
def Obligations.DecodedRowIsTheUnreadFront : Prop :=
  ∀ w i, decodeFrame w = .ok i →
    i.isOp = false ∧ (encode i).length ≤ w.length ∧ encode i = w.take (encode i).length

/-- 30_encoding.md R56: the selection table, row by row; a row of the decoder for every condition and no other. -/
def Obligations.SelectionTableRows : Prop :=
  ∀ w : List Byte,
    let U := w.length
    let H := w.take 4 = [0xAA, 0xFF, 0x03, 0x00]
    let T28 := (w.drop 28).take 2 = [0x55, 0xCC]
    let T12 := (w.drop 12).take 2 = [0x55, 0xCC]
    (30 ≤ U ∧ H ∧ T28 → ∃ b1 b2 b3, decodeFrame w = .ok (.multi b1 b2 b3)) ∧
      (¬(30 ≤ U ∧ H ∧ T28) ∧ 14 ≤ U ∧ H ∧ T12 → ∃ b, decodeFrame w = .ok (.single b)) ∧
      (30 ≤ U ∧ H ∧ ¬T28 ∧ ¬T12 → decodeFrame w = .ok .corruptByte) ∧
      (14 ≤ U ∧ ¬H → ∃ b, decodeFrame w = .ok (.garbageByte b)) ∧
      (14 ≤ U ∧ U < 30 ∧ H ∧ ¬T12 → decodeFrame w = .error .needMore) ∧
      (U < 14 → decodeFrame w = .error .needMore)

/-- 30_encoding.md R56 ("The full algorithm with its order of tests is 41_frame_synchronizer.md rule R91; this table is its
case analysis"): the mask and match rows and the algorithm of R91 select the same row in every state. -/
def Obligations.TableAndAlgorithmAgree : Prop :=
  ∀ s : State, match s.verdict with
    | .needMore => decodeFrame s.view = .error .needMore
    | .skip1 true => decodeFrame s.view = .ok .corruptByte
    | .skip1 false => ∃ b, decodeFrame s.view = .ok (.garbageByte b)
    | .frame .multi => ∃ b1 b2 b3, decodeFrame s.view = .ok (.multi b1 b2 b3)
    | .frame .single => ∃ b, decodeFrame s.view = .ok (.single b)

/-- 30_encoding.md R59: bytes that differ only in the ignored bytes have the same effect in every state: the frame rows by their
operands; DECODE_BLOCK, EXTRACT_MULTI and EXTRACT_SINGLE on frame copies; DECODE_CYCLE on streams whose rows differ only
there, BUF's own bytes apart. -/
def Obligations.IgnoredBytesHaveNoEffect : Prop :=
  (∀ (i j : Instr) (s : State), SameRead i j → exec i s = exec j s) ∧
    (∀ (f g : List Byte) (j : TargetIdx) (s : State), AgreeOff [j.blkOff + 6, j.blkOff + 7] f g →
      exec (.decodeBlock f j) s = exec (.decodeBlock g j) s) ∧
    (∀ (f g : List Byte) (s : State), AgreeOff [10, 11, 18, 19, 26, 27] f g →
      exec (.extractMulti f) s = exec (.extractMulti g) s) ∧
    (∀ (f g : List Byte) (s : State), AgreeOff [10, 11] f g →
      exec (.extractSingle f) s = exec (.extractSingle g) s) ∧
    ∀ (s : State) (buf rx : List Byte), buf.length = s.buf.length → rx.length = s.rx.length →
      List.Forall₂ SameRead s.cycleRows ({ s with buf := buf, rx := rx } : State).cycleRows →
      (∀ t, exec .decodeCycle s = .next t →
        ∃ buf', buf'.length = t.len ∧ exec .decodeCycle { s with buf := buf, rx := rx } = .next { t with buf := buf' }) ∧
        ∀ r, exec .decodeCycle s = .refused r → exec .decodeCycle { s with buf := buf, rx := rx } = .refused r

/-! ### The step -/

/-- 20_memory.md R40, 00_scope.md R8: an operation word at the front of the agenda (the model's, log entry 7) that decodes is
executed, with the word taken off; one that does not is refused by name (the model's choice, log entry 12). -/
def Obligations.StepRunsOperationWord : Prop :=
  ∀ (s : State) (bytes : List Byte) (rest : List Task), s.agenda = .word bytes :: rest →
    (∀ i, decodeWord bytes = .ok i → step s = exec i { s with agenda := rest }) ∧
      ∀ e, decodeWord bytes = .error e → step s = .refused (.undecodable e)

/-- 10_state.md R12, 44_decode_session.md R147: in a drain loop the row decoded at CURSOR is executed and the loop goes on;
where the unread bytes ask to wait, the loop ends and nothing else changes but the event history. -/
def Obligations.StepRunsRowAtCursor : Prop :=
  ∀ (s : State) (rest : List Task), s.agenda = .drain :: rest →
    (∀ i, decodeFrame s.view = .ok i → step s = exec i s) ∧
      (decodeFrame s.view = .error .needMore →
        step s = .next { s with agenda := rest, events := .incomplete :: s.events })

/-- 44_decode_session.md R145 lines 3, 15 and 16, R146, R149; 60_exceptions.md R176: the inner steps of a cycle that have no op
code, and the idle block, which holds its state. -/
def Obligations.InnerStepsAndIdle : Prop :=
  (∀ s : State, s.agenda = [] → step s = .next s) ∧
    (∀ (s : State) (rest : List Task), s.agenda = .clearTargets :: rest →
      step s = .next { s with agenda := rest, slots := { s1 := none, s2 := none, s3 := none }, nearest := 0 }) ∧
    ∀ (s : State) (rest : List Task), s.agenda = .sample :: rest → s.cursor ≤ s.len →
      step s = .next { s with
        agenda := rest
        bytesPending := BitVec.ofNat 16 (s.len - s.cursor)
        loopDurationMs := Config.duration s.draws
        draws := s.draws + 1 }

/-! ### FixedPoint Codec -/

/-- 42_fixedpoint_codec.md R110: for `offset + 2 ≤ |buf|`, READ_U16_LE returns the low byte plus 256 times the high byte and
writes nothing else. -/
def Obligations.ReadU16LittleEndian : Prop :=
  ∀ (s : State) (buf : List Byte) (offset : Nat), offset + 2 ≤ buf.length →
    ∃ (lo hi : Byte) (v : U16), buf[offset]? = some lo ∧ buf[offset + 1]? = some hi ∧
      v.toNat = lo.toNat + 256 * hi.toNat ∧ exec (.readU16Le buf offset) s = .next { s with result := .u16 v }

/-- 42_fixedpoint_codec.md R111: bit 15 clear means negative, bits 14..0 are the magnitude; total on all 65536 words. -/
def Obligations.DecodeSignedIsInvertedSignMagnitude : Prop :=
  ∀ (s : State) (raw : U16),
    exec (.decodeSigned raw) s = .next { s with
      result := .int (if raw.toNat < 32768 then -(raw.toNat : Int) else (raw.toNat : Int) - 32768) }

/-- 42_fixedpoint_codec.md R112 (a), (c) to (f): range, sign flip, the two zeros, neither two's complement nor its negation,
injectivity off the zeros. -/
def Obligations.DecodeSignedLaws : Prop :=
  (∀ raw : U16, -32767 ≤ decodeSigned raw ∧ decodeSigned raw ≤ 32767) ∧
    (∀ raw : U16, decodeSigned (raw ^^^ 0x8000) = -decodeSigned raw) ∧
    (∀ raw : U16, decodeSigned raw = 0 ↔ raw = 0x0000 ∨ raw = 0x8000) ∧
    (∃ raw : U16, decodeSigned raw ≠ raw.toInt ∧ decodeSigned raw ≠ -raw.toInt) ∧
    ∀ raw raw' : U16, decodeSigned raw ≠ 0 → decodeSigned raw = decodeSigned raw' → raw = raw'

/-- 42_fixedpoint_codec.md R115; 30_encoding.md R55: the encoder `sm` is inverse to DECODE_SIGNED on −32767..32767. -/
def Obligations.SignedEncoderInverse : Prop :=
  (∀ n : Int, -32767 ≤ n → n ≤ 32767 → decodeSigned (sm n) = n) ∧
    ∀ raw : U16, decodeSigned raw ≠ 0 → sm (decodeSigned raw) = raw

/-- 42_fixedpoint_codec.md R113, R114 with `F` the rationals (log entry 2): on every operand TO_METRES and TO_MPS complete and
write nothing but the returned value; on the operands for which the rules state a result it is the exact quotient, within
±32.767 and ±327.67. (That they run on the others, with a free value, is the model's choice, log entry 19.) -/
def Obligations.UnitScaling : Prop :=
  ∀ (s : State) (n : Int),
    (∃ x : F, exec (.toMetres n) s = .next { s with result := .real x } ∧
      (-32767 ≤ n → n ≤ 32767 → x * 1000 = n ∧ -32767 / 1000 ≤ x ∧ x ≤ 32767 / 1000)) ∧
      ∃ x : F, exec (.toMps n) s = .next { s with result := .real x } ∧
        (-32767 ≤ n → n ≤ 32767 → x * 100 = n ∧ -32767 / 100 ≤ x ∧ x ≤ 32767 / 100)

/-! ### Stream Buffer Manager -/

/-- 40_buffer_manager.md R70: INGEST appends every byte RX holds, in order, and changes nothing else; beyond a finite PHYS_CAP
it is refused. -/
def Obligations.IngestAppendsAllOfRx : Prop :=
  ∀ s : State,
    (s.params.fits (s.len + s.rx.length) = true →
      exec .ingest s = .next { s with buf := s.buf ++ s.rx, rx := [] }) ∧
      (s.params.fits (s.len + s.rx.length) = false → exec .ingest s = .refused .physCapExceeded)

/-- 40_buffer_manager.md R71: PENDING_UNREAD returns `LEN − CURSOR` modulo 65536, 0 in the unreachable other case, and writes
nothing. -/
def Obligations.PendingUnreadReportsUnreadCount : Prop :=
  ∀ s : State, ∃ v : U16, exec .pendingUnread s = .next { s with result := .u16 v } ∧
    (s.cursor ≤ s.len → v.toNat = (s.len - s.cursor) % 65536) ∧ (s.len < s.cursor → v = 0)

/-- 40_buffer_manager.md R72: above 512 bytes `min(LEN − 512, CURSOR)` consumed bytes go from the front and FRAMES_BAD moves by
exactly 1, also when nothing can be evicted; at 512 and below nothing happens. -/
def Obligations.EnforceCapacityEvictsConsumedBytes : Prop :=
  ∀ s : State,
    (s.len ≤ 512 → exec .enforceCapacity s = .next s) ∧
      (512 < s.len → s.params.counts (s.framesBad + 1) = true →
        exec .enforceCapacity s = .next { s with
          buf := s.buf.drop (min (s.len - 512) s.cursor)
          cursor := s.cursor - min (s.len - 512) s.cursor
          framesBad := s.framesBad + 1
          events := .overflow (min (s.len - 512) s.cursor) :: s.events }) ∧
      (512 < s.len → s.params.counts (s.framesBad + 1) = false → exec .enforceCapacity s = .refused .counterOverflow)

/-- 40_buffer_manager.md R72 (c), (d), C1: "`LEN' = max(max, LEN − CURSOR)`", and the unread bytes stay as they are. -/
def Obligations.CapacityIsConditional : Prop :=
  ∀ s t : State, s.cursor ≤ s.len → 512 < s.len → exec .enforceCapacity s = .next t →
    t.len = max 512 (s.len - s.cursor) ∧ t.view = s.view ∧ t.cursor ≤ t.len

/-- 40_buffer_manager.md R73: COMPACT removes the consumed bytes when they are more than half of the buffer, leaves the unread
bytes as they are, and writes no counter. -/
def Obligations.CompactReclaimsMoreThanHalf : Prop :=
  ∀ s : State,
    (0 < s.cursor → s.len < 2 * s.cursor →
      exec .compact s = .next { s with buf := s.buf.drop s.cursor, cursor := 0, events := .compacted :: s.events }) ∧
      (s.cursor = 0 ∨ 2 * s.cursor ≤ s.len → exec .compact s = .next s)

/-- 40_buffer_manager.md R74: ADVANCE(n), for n of 1, 14 or 30 and at most the unread bytes, adds n to CURSOR and writes nothing
else. -/
def Obligations.AdvanceMovesCursor : Prop :=
  ∀ (s : State) (n : Stride),
    n.bytes ∈ [1, 14, 30] ∧
      (s.cursor + n.bytes ≤ s.len → exec (.advance n) s = .next { s with cursor := s.cursor + n.bytes })

/-- 20_memory.md R31, 40_buffer_manager.md R75: DropFront(d) makes the byte at `d + i` the byte at `i` and takes `d` from
CURSOR, so that CURSOR keeps designating the same byte. -/
def Obligations.DropFrontRenumbers : Prop :=
  ∀ (s : State) (d : Nat), d ≤ s.cursor → s.cursor ≤ s.len →
    (∀ i, (dropFront d s).readByte i = s.readByte (d + i)) ∧ (dropFront d s).len = s.len - d ∧
      (dropFront d s).cursor = s.cursor - d ∧ (dropFront d s).view = s.view

/-! ### Frame Synchronizer -/

/-- 41_frame_synchronizer.md R91: the verdict of SYNC_CLASSIFY line by line, on the bytes at CURSOR; it writes nothing else. -/
def Obligations.SyncClassifyLineByLine : Prop :=
  ∀ s : State,
    let U := s.len - s.cursor
    ∃ v, exec .syncClassify s = .next { s with result := .verdict v } ∧
      (U < 14 → v = .needMore) ∧
      (14 ≤ U → ¬s.headerHere → v = .skip1 false) ∧
      (30 ≤ U → s.headerHere → s.trailerHere 28 → v = .frame .multi) ∧
      (14 ≤ U → s.headerHere → ¬(30 ≤ U ∧ s.trailerHere 28) → s.trailerHere 12 → v = .frame .single) ∧
      (30 ≤ U → s.headerHere → ¬s.trailerHere 28 → ¬s.trailerHere 12 → v = .skip1 true) ∧
      (14 ≤ U → U < 30 → s.headerHere → ¬s.trailerHere 12 → v = .needMore)

/-- 41_frame_synchronizer.md R93: with 30 unread bytes and both trailers the verdict is the multi frame, whatever the bytes
between; with fewer than 30 the multi form is not attempted and a trailer at 12 wins. -/
def Obligations.MultiFrameTakesPrecedence : Prop :=
  ∀ s : State, s.headerHere → s.trailerHere 12 →
    (30 ≤ s.len - s.cursor → s.trailerHere 28 →
      exec .syncClassify s = .next { s with result := .verdict (.frame .multi) }) ∧
      (14 ≤ s.len - s.cursor → s.len - s.cursor < 30 →
        exec .syncClassify s = .next { s with result := .verdict (.frame .single) })

/-- 41_frame_synchronizer.md R92: the path of one classification is one of the five the rule lists, and ends in the state of its
verdict. -/
def Obligations.NamedStatesPath : Prop :=
  ∀ (U : Nat) (w : List Byte),
    (syncPath U w = [.scanning, .needMore] ∧ syncClassify U w = .needMore) ∨
      (syncPath U w = [.scanning, .garbage] ∧ syncClassify U w = .skip1 false) ∨
      (∃ kind, syncPath U w = [.scanning, .headerFound, .frameReady kind] ∧ syncClassify U w = .frame kind) ∨
      (syncPath U w = [.scanning, .headerFound, .garbage] ∧ syncClassify U w = .skip1 true) ∨
      (syncPath U w = [.scanning, .headerFound, .needMore] ∧ syncClassify U w = .needMore)

/-- 41_frame_synchronizer.md R94: with N garbage bytes that carry no header, and at least 14 bytes unread at each of them, a
drain loop takes exactly N steps of one byte each, uncounted, and what follows them stands at CURSOR. -/
def Obligations.ResynchronisesOverGarbage : Prop :=
  ∀ (s : State) (g w : List Byte) (rest : List Task), s.agenda = .drain :: rest → s.view = g ++ w → 13 ≤ w.length →
    (∀ k < g.length, ((g ++ w).drop k).take 4 ≠ [0xAA, 0xFF, 0x03, 0x00]) →
    let t := { s with
      cursor := s.cursor + g.length
      events := List.replicate g.length .desync ++ s.events }
    StepsTo g.length s t ∧ t.view = w

/-- 70_reset_and_hazards.md R191: of a multi frame whose second x word is `0xCC55`, 14 to 29 bytes at CURSOR are a single
frame, all 30 a multi frame, fewer than 14 nothing yet. -/
def Obligations.ChunkingHazard : Prop :=
  ∀ (s : State) (b1 b2 b3 : Block) (k : Nat), b2.x = 0xCC55 → s.view = (encode (.multi b1 b2 b3)).take k →
    exec .syncClassify s = .next { s with
      result := .verdict (if k < 14 then .needMore else if k < 30 then .frame .single else .frame .multi) }

/-- 41_frame_synchronizer.md R91, R95; 30_encoding.md R58: the counted and the uncounted skip, one byte each, where a byte is
unread. -/
def Obligations.SkipsAdvanceOneByte : Prop :=
  ∀ (s : State) (b : Byte), 1 ≤ s.unread →
    exec (.garbageByte b) s = .next { s with cursor := s.cursor + 1, events := .desync :: s.events } ∧
      (s.params.counts (s.framesBad + 1) = true →
        exec .corruptByte s = .next { s with
          cursor := s.cursor + 1
          framesBad := s.framesBad + 1
          events := .corruptHeader :: s.events }) ∧
      (s.params.counts (s.framesBad + 1) = false → exec .corruptByte s = .refused .counterOverflow)

/-! ### Target Extractor -/

/-- 43_target_extractor.md R125, R126: DECODE_BLOCK reads three words from offset 4, 12 or 20 and returns nothing when all three
decode to 0 (under PRESENT_ON_RAW: when all three words are 0), else the record of the scaled values; it writes nothing else
but the event history. -/
def Obligations.DecodeBlockReadsThreeWords : Prop :=
  ∀ (s : State) (f : List Byte) (j : TargetIdx), j.blkOff + 6 ≤ f.length →
    let rawX := readU16LE f j.blkOff
    let rawY := readU16LE f (j.blkOff + 2)
    let rawV := readU16LE f (j.blkOff + 4)
    let x := decodeSigned rawX
    let y := decodeSigned rawY
    let v := decodeSigned rawV
    let absent := (s.params.presentOnRaw = false ∧ x = 0 ∧ y = 0 ∧ v = 0) ∨
      (s.params.presentOnRaw = true ∧ rawX = 0 ∧ rawY = 0 ∧ rawV = 0)
    (absent →
      exec (.decodeBlock f j) s = .next { s with result := .block none, events := .noTarget j :: s.events }) ∧
      (¬absent →
        exec (.decodeBlock f j) s = .next { s with
          result := .block (some {
            x_m := (x : F) / 1000
            y_m := (y : F) / 1000
            speed_mps := (v : F) / 100
            range_m := rangeM x y
            bearing_deg := atan2Deg y x }) })

/-- 43_target_extractor.md R126: a block made only of the words `0x0000` and `0x8000` is absent, and no other is. -/
def Obligations.AbsentBlocks : Prop :=
  ∀ x y v : U16, targetOf false x y v = none ↔
    (x = 0x0000 ∨ x = 0x8000) ∧ (y = 0x0000 ∨ y = 0x8000) ∧ (v = 0x0000 ∨ v = 0x8000)

/-- 43_target_extractor.md R127, 42_fixedpoint_codec.md R116 (tolerance: the model's reading, log entry 3): the range is not
negative, exact where the exact value is rational, and otherwise within the tolerance of `sqrt(xmm² + ymm²) / 1000`. -/
def Obligations.RangeIsEuclidean : Prop :=
  ∀ x y : Int, 0 ≤ rangeM x y ∧
    (∀ k : Nat, x ^ 2 + y ^ 2 = (k : Int) ^ 2 → rangeM x y = (k : F) / 1000) ∧
    |((rangeM x y : F) : ℝ) - Real.sqrt ((x : ℝ) ^ 2 + (y : ℝ) ^ 2) / 1000| ≤ 1002 / 1000000

/-- 43_target_extractor.md R128: the bearing on the four half-axes, 180 and never −180; on the diagonals; `ATAN2DEG_00` at the
origin; and for every codec value off the origin it lies in `(−180, 180]`, on the side of the x axis the point is on. -/
def Obligations.BearingAxesAndInterval : Prop :=
  (∀ n : Int, 0 < n → atan2Deg 0 n = 0 ∧ atan2Deg n 0 = 90 ∧ atan2Deg 0 (-n) = 180 ∧ atan2Deg (-n) 0 = -90 ∧
      atan2Deg n n = 45 ∧ atan2Deg n (-n) = 135 ∧ atan2Deg (-n) (-n) = -135 ∧ atan2Deg (-n) n = -45) ∧
    atan2Deg 0 0 = Config.ATAN2DEG_00 ∧
    ∀ x y : Int, -32767 ≤ x → x ≤ 32767 → -32767 ≤ y → y ≤ 32767 → ¬(x = 0 ∧ y = 0) →
      -180 < atan2Deg y x ∧ atan2Deg y x ≤ 180 ∧ (0 < y → 0 < atan2Deg y x ∧ atan2Deg y x < 180) ∧
        (y < 0 → atan2Deg y x < 0)

/-- 43_target_extractor.md R128, 42_fixedpoint_codec.md R116 (tolerance: the model's reading, log entry 3): for every codec value
off the origin the bearing lies within the tolerance of the angle of the point `(x, y)`, in degrees. -/
def Obligations.BearingIsTheAngle : Prop :=
  ∀ x y : Int, -32767 ≤ x → x ≤ 32767 → -32767 ≤ y → y ≤ 32767 → ¬(x = 0 ∧ y = 0) →
    |((atan2Deg y x : F) : ℝ) - Complex.arg ⟨(x : ℝ), (y : ℝ)⟩ * 180 / Real.pi| ≤ 1002 / 1000000

/-- 43_target_extractor.md R131: NORMALISE as written, where its result lies in `(−180, 180]`, and for which install angles a raw
bearing in that interval comes to lie in it. -/
def Obligations.NormaliseOneTurn : Prop :=
  (∀ b : F, (180 < b → normalise b = b - 360) ∧ (b < -180 → normalise b = b + 360) ∧
      (-180 ≤ b → b ≤ 180 → normalise b = b) ∧
      ((-180 < normalise b ∧ normalise b ≤ 180) ↔ (-540 < b ∧ b ≤ 540 ∧ b ≠ -180))) ∧
    ∀ raw angle : F, -180 < raw → raw ≤ 180 → -360 < angle → angle ≤ 360 → raw + angle ≠ -180 →
      -180 < normalise (raw + angle) ∧ normalise (raw + angle) ≤ 180

/-- 43_target_extractor.md R129: EXTRACT_MULTI returns the three blocks at 4, 12 and 20, each independent of the install angle,
and writes nothing else but the event history. -/
def Obligations.ExtractMultiThreeBlocks : Prop :=
  ∀ (s : State) (f : List Byte), f.length = 30 →
    ∃ ev, exec (.extractMulti f) s = .next { s with
        result := .blocks {
          s1 := decodeBlock s.params.presentOnRaw f 4
          s2 := decodeBlock s.params.presentOnRaw f 12
          s3 := decodeBlock s.params.presentOnRaw f 20 }
        events := ev } ∧
      ∀ a, exec (.extractMulti f) { s with installOffsetDeg := a } = .next { s with
        installOffsetDeg := a
        result := .blocks {
          s1 := decodeBlock s.params.presentOnRaw f 4
          s2 := decodeBlock s.params.presentOnRaw f 12
          s3 := decodeBlock s.params.presentOnRaw f 20 }
        events := ev }

/-- 43_target_extractor.md R130, R131: EXTRACT_SINGLE returns the block at 4 with the install angle added to the bearing and
normalised; an absent block yields nothing whatever the angle; a present one under a non-finite angle stops by name (U10). -/
def Obligations.ExtractSingleCorrectsBearing : Prop :=
  ∀ (s : State) (f : List Byte), f.length = 14 →
    (decodeBlock s.params.presentOnRaw f 4 = none →
      exec (.extractSingle f) s = .next { s with result := .block none, events := .noTarget .t1 :: s.events }) ∧
      (∀ t deg, decodeBlock s.params.presentOnRaw f 4 = some t → s.installOffsetDeg = .finite deg →
        exec (.extractSingle f) s = .next { s with
          result := .block (some { t with bearing_deg := normalise (t.bearing_deg + deg) }) }) ∧
      (∀ t, decodeBlock s.params.presentOnRaw f 4 = some t → s.installOffsetDeg = .nonFinite →
        exec (.extractSingle f) s = .refused .nonFiniteInstallOffset)

/-- 43_target_extractor.md R129, R132 to R134; 44_decode_session.md R147: a MULTI frame completes wherever its 30 bytes are
unread: each present block overwrites its own slot and feeds NEAREST in block order, an absent one leaves its slot, the frame
is stamped and counted, and nothing else changes but the event history. -/
def Obligations.MultiFrameDelivered : Prop :=
  ∀ (s : State) (b1 b2 b3 : Block), 30 ≤ s.unread → s.params.counts (s.framesParsed + 1) = true →
    let t1 := targetOf s.params.presentOnRaw b1.x b1.y b1.v
    let t2 := targetOf s.params.presentOnRaw b2.x b2.y b2.v
    let t3 := targetOf s.params.presentOnRaw b3.x b3.y b3.v
    ∃ ev, exec (.multi b1 b2 b3) s = .next { s with
      cursor := s.cursor + 30
      slots := { s1 := t1.or s.slots.s1, s2 := t2.or s.slots.s2, s3 := t3.or s.slots.s3 }
      nearest := ([t1, t2, t3].filterMap id).foldl
        (fun m t => if m = 0 ∨ t.range_m < m then t.range_m else m) s.nearest
      framesParsed := s.framesParsed + 1
      lastSeen := some (Config.NOW s.draws)
      draws := s.draws + 1
      events := ev }

/-- 43_target_extractor.md R130 to R134; 44_decode_session.md R147: a SINGLE frame completes wherever its 14 bytes are unread:
a present block goes to slot 1 with the corrected bearing and feeds NEAREST, an absent one leaves the slot; slots 2 and 3 are
never touched; under a non-finite angle a present block stops by name (U10). -/
def Obligations.SingleFrameDelivered : Prop :=
  ∀ (s : State) (b : Block), 14 ≤ s.unread → s.params.counts (s.framesParsed + 1) = true →
    (targetOf s.params.presentOnRaw b.x b.y b.v = none →
      exec (.single b) s = .next { s with
        cursor := s.cursor + 14
        framesParsed := s.framesParsed + 1
        lastSeen := some (Config.NOW s.draws)
        draws := s.draws + 1
        events := .noTarget .t1 :: s.events }) ∧
      (∀ t deg, targetOf s.params.presentOnRaw b.x b.y b.v = some t → s.installOffsetDeg = .finite deg →
        exec (.single b) s = .next { s with
          cursor := s.cursor + 14
          slots := { s.slots with s1 := some { t with bearing_deg := normalise (t.bearing_deg + deg) } }
          nearest := if s.nearest = 0 ∨ t.range_m < s.nearest then t.range_m else s.nearest
          framesParsed := s.framesParsed + 1
          lastSeen := some (Config.NOW s.draws)
          draws := s.draws + 1 }) ∧
      (∀ t, targetOf s.params.presentOnRaw b.x b.y b.v = some t → s.installOffsetDeg = .nonFinite →
        exec (.single b) s = .refused .nonFiniteInstallOffset)

/-- Where a row's bytes are not all unread it stops by name (the model's choice, log entry 12: R74 gives ADVANCE a precondition
and no effect outside it); where FRAMES_PARSED stands at the top of a finite width, MULTI does, and so does SINGLE whose
block is absent or whose install angle is finite (D6, U2). -/
def Obligations.FrameRowsStop : Prop :=
  ∀ (s : State) (b1 b2 b3 : Block) (b : Byte),
    (s.unread < 30 → exec (.multi b1 b2 b3) s = .refused .advancePastEnd) ∧
      (s.unread < 14 → exec (.single b1) s = .refused .advancePastEnd) ∧
      (s.unread < 1 → exec .corruptByte s = .refused .advancePastEnd ∧
        exec (.garbageByte b) s = .refused .advancePastEnd) ∧
      (30 ≤ s.unread → s.params.counts (s.framesParsed + 1) = false →
        exec (.multi b1 b2 b3) s = .refused .counterOverflow) ∧
      (14 ≤ s.unread → s.params.counts (s.framesParsed + 1) = false →
        targetOf s.params.presentOnRaw b1.x b1.y b1.v = none ∨ (∃ deg, s.installOffsetDeg = .finite deg) →
        exec (.single b1) s = .refused .counterOverflow)

/-- 40_buffer_manager.md R74; 42_fixedpoint_codec.md R110; 43_target_extractor.md R125, R129, R130 (that an operation outside the
operands its rule gives stops is the model's, log entry 12): those operations stop by name, and on nothing else. -/
def Obligations.OperationsStopOutsideTheirOperands : Prop :=
  ∀ (s : State) (n : Stride) (f : List Byte) (offset : Nat) (j : TargetIdx), s.cursor ≤ s.len →
    (exec (.advance n) s = .refused .advancePastEnd ↔ s.len < s.cursor + n.bytes) ∧
      (exec (.readU16Le f offset) s = .refused .readOutsideFrame ↔ f.length < offset + 2) ∧
      (exec (.decodeBlock f j) s = .refused .readOutsideFrame ↔ f.length < j.blkOff + 6) ∧
      (exec (.extractMulti f) s = .refused .readOutsideFrame ↔ f.length ≠ 30) ∧
      (exec (.extractSingle f) s = .refused .readOutsideFrame ↔ f.length ≠ 14)

/-! ### Decode Session -/

/-- 70_reset_and_hazards.md R180: RESET gives every piece of architectural state its reset value, and touches neither the byte
source nor the inputs nor the parameters nor the model's own fields. -/
def Obligations.ResetValues : Prop :=
  ∀ s : State, exec .reset s = .next { s with
    buf := []
    cursor := 0
    slots := { s1 := none, s2 := none, s3 := none }
    nearest := 0
    framesParsed := 0
    framesBad := 0
    bytesPending := 0
    loopDurationMs := 0
    lastSeen := none }

/-- 70_reset_and_hazards.md R180, R181: the state after reset, and the invariants of 10_state.md R23 in it; its agenda is one a
host may leave (the model's, log entry 7). -/
def Obligations.ResetStateMeetsTheInvariants : Prop :=
  State.reset.buf = [] ∧ State.reset.cursor = 0 ∧ (∀ j, State.reset.slot j = none) ∧ State.reset.nearest = 0 ∧
    State.reset.framesParsed = 0 ∧ State.reset.framesBad = 0 ∧ State.reset.bytesPending = 0 ∧
    State.reset.loopDurationMs = 0 ∧ State.reset.lastSeen = none ∧ State.reset.Inv ∧ State.reset.Boundary ∧
    State.reset.hostAgenda = true

/-- 60_exceptions.md R160, 44_decode_session.md R145, 95_test_vectors.md 2.5: DECODE_CYCLE answers a next state for every state and
every bytes, as long as the chunk fits the physical store, a finite CTR_W has room for what the cycle counts, and the install
angle is finite or no present single target is met; and it moves the two counters by the frames and the anomalies met. -/
def Obligations.DecodeCycleCompletes : Prop :=
  ∀ s : State, s.params.fits (s.len + s.rx.length) = true → s.CycleHasRoom → s.CycleAngleUsable →
    ∃ t, exec .decodeCycle s = .next t ∧ t.framesParsed = s.framesParsed + s.cycleFrames ∧
      t.framesBad = s.framesBad + s.cycleBad

/-- 40_buffer_manager.md R70, 93_implementation_defined.md U1, U2, U10: where DECODE_CYCLE stops: on a chunk beyond a finite
PHYS_CAP, else on a counter without room or a present single target under a non-finite angle. -/
def Obligations.DecodeCycleStops : Prop :=
  ∀ s : State,
    (s.params.fits (s.len + s.rx.length) = false → exec .decodeCycle s = .refused .physCapExceeded) ∧
      (s.params.fits (s.len + s.rx.length) = true → ¬s.CycleHasRoom → s.CycleAngleUsable →
        exec .decodeCycle s = .refused .counterOverflow) ∧
      (s.params.fits (s.len + s.rx.length) = true → s.CycleHasRoom → ¬s.CycleAngleUsable →
        exec .decodeCycle s = .refused .nonFiniteInstallOffset) ∧
      (s.params.fits (s.len + s.rx.length) = true → ¬s.CycleHasRoom → ¬s.CycleAngleUsable →
        exec .decodeCycle s = .refused .counterOverflow ∨ exec .decodeCycle s = .refused .nonFiniteInstallOffset)

/-- 10_state.md R23 (iv), (v); 40_buffer_manager.md R78; 44_decode_session.md R149: at the end of every cycle at most 29 bytes
are unread, CURSOR ≤ 29, LEN ≤ 58, and BYTES_PENDING is the unread count. -/
def Obligations.CycleEndBounds : Prop :=
  ∀ s t : State, s.cursor ≤ s.len → exec .decodeCycle s = .next t →
    t.len - t.cursor ≤ 29 ∧ t.cursor ≤ 29 ∧ t.len ≤ 58 ∧ t.cursor ≤ t.len ∧
      t.bytesPending.toNat = t.len - t.cursor

/-- 41_frame_synchronizer.md R97: after a cycle either fewer than 14 bytes are unread, or fewer than 30 with the header at CURSOR
and no trailer at offset 12. -/
def Obligations.CycleEndsWaiting : Prop :=
  ∀ s t : State, s.cursor ≤ s.len → exec .decodeCycle s = .next t →
    t.unread < 14 ∨ (14 ≤ t.unread ∧ t.unread < 30 ∧ t.headerHere ∧ ¬t.trailerHere 12)

/-- 44_decode_session.md R146: what the slots, NEAREST and the two samples held before a cycle has no effect on its outcome. -/
def Obligations.CycleStartsFromClearedTargets : Prop :=
  ∀ (s : State) (ts : Slots) (r : F) (pending dur : U16),
    exec .decodeCycle { s with slots := ts, nearest := r, bytesPending := pending, loopDurationMs := dur } =
      exec .decodeCycle s

/-- 44_decode_session.md R151: a cycle with no new byte at a cycle boundary clears the slots and NEAREST, rewrites BYTES_PENDING
with the same value and LOOP_DURATION_MS with a draw, and leaves both counters, LAST_SEEN and the unread bytes unchanged; BUF
itself unless COMPACT's condition holds. -/
def Obligations.EmptyCycle : Prop :=
  ∀ s : State, s.Inv → s.Boundary → s.rx = [] → s.verdict = .needMore →
    ∃ t, exec .decodeCycle s = .next t ∧ (∀ j, t.slot j = none) ∧ t.nearest = 0 ∧ t.framesParsed = s.framesParsed ∧
      t.framesBad = s.framesBad ∧ t.lastSeen = s.lastSeen ∧ t.bytesPending = s.bytesPending ∧
      t.loopDurationMs = Config.duration s.draws ∧ t.view = s.view ∧
      (2 * s.cursor ≤ s.len → t.buf = s.buf ∧ t.cursor = s.cursor)

/-- 44_decode_session.md R145 ("the order is normative"), R150; 20_memory.md R40: the single operations of a cycle, run one step
at a time in the order of R145 from the agenda (the model's, log entry 7), come to the state that DECODE_CYCLE gives at
once. -/
def Obligations.SingleStepsRefineDecodeCycle : Prop :=
  ∀ s t : State, exec .decodeCycle s = .next t → ∃ n, StepsTo n { s with agenda := cycleTasks ++ s.agenda } t

/-- 41_frame_synchronizer.md R96: a drain loop makes at most `max(0, U − 13)` advancing classifications: more fuel than that and
one for the final NEED_MORE changes nothing. -/
def Obligations.DrainLoopBound : Prop :=
  ∀ (s : State) (n : Nat), s.unread - 13 < n → drainLoop n s = drain s

/-- 41_frame_synchronizer.md R98, 95_test_vectors.md E8: a multi frame whose bytes 12, 13 are not the trailer, delivered in two
parts over two cycles, is parsed exactly once, in the second, with the data of the whole frame, and no byte is lost. -/
def Obligations.PartialFrameRetention : Prop :=
  ∀ (s : State) (b1 b2 b3 : Block) (k : Nat), b2.x ≠ 0xCC55 → k < 30 → s.Inv → s.view = [] → s.len ≤ 58 →
    s.params.physCap = none → s.params.ctrW = none → s.rx = (encode (.multi b1 b2 b3)).take k →
    ∃ t, exec .decodeCycle s = .next t ∧ t.framesParsed = s.framesParsed ∧ t.framesBad = s.framesBad ∧
      t.view = (encode (.multi b1 b2 b3)).take k ∧
      ∃ u, exec .decodeCycle (t.deliver ((encode (.multi b1 b2 b3)).drop k)) = .next u ∧
        u.framesParsed = s.framesParsed + 1 ∧ u.framesBad = s.framesBad ∧ u.view = [] ∧
        u.slot .t1 = targetOf s.params.presentOnRaw b1.x b1.y b1.v ∧
        u.slot .t2 = targetOf s.params.presentOnRaw b2.x b2.y b2.v ∧
        u.slot .t3 = targetOf s.params.presentOnRaw b3.x b3.y b3.v

/-! ### Whole-machine rules -/

/-- 10_state.md R23, 40_buffer_manager.md R77: the invariants hold at every point between two operations: every step keeps
them. -/
def Obligations.StepKeepsTheInvariants : Prop :=
  ∀ s t : State, s.Inv → step s = .next t → t.Inv

/-- 10_state.md R23, 40_buffer_manager.md R78, 60_exceptions.md R171: from every state that meets the invariants and the bounds of
a cycle boundary and whose agenda (the model's, log entry 7) holds only what a host may issue, a step leads to such a state;
so every state is one that a run from reset comes to under a host that delivers bytes, sets the angle and issues RESET and
DECODE_CYCLE, in any order and number. -/
def Obligations.HostRunStaysWithinBounds : Prop :=
  (∀ s t : State, s.Inv → s.Boundary → s.hostAgenda = true → step s = .next t →
      t.Inv ∧ t.Boundary ∧ t.hostAgenda = true) ∧
    ∀ s : State, Reachable s → s.Inv ∧ s.Boundary ∧ s.hostAgenda = true

/-- 20_memory.md R44: no operation but RESET loses, duplicates or reorders a byte: the stream of bytes still to be consumed keeps
its order and loses only bytes from its front, exactly those the operation consumes. -/
def Obligations.StreamIsConserved : Prop :=
  ∀ (s t : State) (i : Instr), i ≠ .reset → s.cursor ≤ s.len → exec i s = .next t →
    (∃ n, n ≤ s.pendingStream.length ∧ t.pendingStream = s.pendingStream.drop n) ∧
      (i = .ingest ∨ i = .enforceCapacity ∨ i = .compact → t.pendingStream = s.pendingStream) ∧
      (∀ n, i = .advance n → t.pendingStream = s.pendingStream.drop n.bytes) ∧
      (i.isOp = false → t.pendingStream = s.pendingStream.drop (encode i).length)

/-- 20_memory.md R39, R43: only the buffer manager's operations, the rows of the byte stream, RESET and DECODE_CYCLE change the
buffer or the cursor; and no operation changes a byte in place: what ADVANCE, a frame or a skip leaves behind reads as before. -/
def Obligations.BufferOwnership : Prop :=
  ∀ (s t : State) (i : Instr), exec i s = .next t →
    (i.opCode.all (6 ≤ ·) = true → i.isOp = true → i ≠ .decodeCycle → ∀ a, t.readByte a = s.readByte a ∧
      t.cursor = s.cursor ∧ t.rx = s.rx) ∧
      (i = .pendingUnread → ∀ a, t.readByte a = s.readByte a ∧ t.cursor = s.cursor ∧ t.rx = s.rx) ∧
      ((∃ n, i = .advance n) ∨ i.isOp = false → ∀ a, t.readByte a = s.readByte a) ∧
      (i = .ingest → ∀ a < s.len, t.readByte a = s.readByte a)

/-- 10_state.md R15, 60_exceptions.md R161: every operation but RESET leaves FRAMES_PARSED and FRAMES_BAD as they were or
larger, and FRAMES_BAD moves by exactly the number of CorruptHeader and Overflow events recorded. -/
def Obligations.CountersCountEvents : Prop :=
  ∀ (s t : State) (i : Instr), i ≠ .reset → exec i s = .next t →
    s.framesParsed ≤ t.framesParsed ∧
      ∃ new, t.events = new ++ s.events ∧
        t.framesBad = s.framesBad +
          new.countP (fun e => match e with | .corruptHeader => true | .overflow _ => true | _ => false)

/-- 43_target_extractor.md R133, R134, 10_state.md R16 to R18: which operations write LAST_SEEN, the slots, NEAREST and the two
samples: none but the frames, DECODE_CYCLE and RESET write LAST_SEEN, FRAMES_PARSED, a slot or NEAREST, none but DECODE_CYCLE
and RESET a sample; no operation writes the install angle, the host's input (R19); and none writes the parameters or the
agenda, which is the model's choice (log entries 4 and 7). -/
def Obligations.WhoWritesWhat : Prop :=
  ∀ (s t : State) (i : Instr), exec i s = .next t →
    (t.params = s.params ∧ t.installOffsetDeg = s.installOffsetDeg ∧ t.agenda = s.agenda) ∧
      (i ≠ .decodeCycle → i ≠ .reset → t.bytesPending = s.bytesPending ∧ t.loopDurationMs = s.loopDurationMs) ∧
      (i ≠ .decodeCycle → i ≠ .reset → (∀ b1 b2 b3, i ≠ .multi b1 b2 b3) → (∀ b, i ≠ .single b) →
        t.slots = s.slots ∧ t.nearest = s.nearest ∧ t.lastSeen = s.lastSeen ∧ t.framesParsed = s.framesParsed ∧
          t.draws = s.draws) ∧
      (∀ b, i = .single b → t.slot .t2 = s.slot .t2 ∧ t.slot .t3 = s.slot .t3)

/-- 43_target_extractor.md R129, R135: the install angle has no effect on a multi frame. -/
def Obligations.MultiIgnoresInstallAngle : Prop :=
  ∀ (s t : State) (b1 b2 b3 : Block) (a : InstallAngle), exec (.multi b1 b2 b3) s = .next t →
    exec (.multi b1 b2 b3) { s with installOffsetDeg := a } = .next { t with installOffsetDeg := a }

/-! ### The physical store -/

/-- 20_memory.md R45: MemAppend on the circular store appends to the abstract sequence and keeps the store well formed, and is
allowed only below PHYS_CAP. -/
def Obligations.RingAppendRefines : Prop :=
  ∀ (r : Ring) (b : Byte), r.wf = true →
    (r.len < r.cap → ∃ r', r.append b = some r' ∧ r'.wf = true ∧ r'.toBuf = r.toBuf ++ [b] ∧ r'.cursor = r.cursor ∧
      r'.cap = r.cap) ∧
      (r.cap ≤ r.len → r.append b = none)

/-- 20_memory.md R45, 40_buffer_manager.md R75: DropFront on the circular store drops from the abstract sequence and moves no
byte. -/
def Obligations.RingDropFrontRefines : Prop :=
  ∀ (r : Ring) (d : Nat), r.wf = true → d ≤ r.cursor →
    (r.dropFront d).wf = true ∧ (r.dropFront d).toBuf = r.toBuf.drop d ∧ (r.dropFront d).cursor = r.cursor - d ∧
      (r.dropFront d).mem = r.mem
end

