-- ==== Sys2Proof/Laws/State.lean ====
section
/-! SUPPORT. One lemma per field per state update, so that no later proof unfolds a record update. -/

namespace Sys2Proof.Machine

/-! ### `memAppend` -/

@[simp] theorem memAppend_buf (s : State) (b : Byte) : (memAppend s b).buf = s.buf ++ [b] := rfl
@[simp] theorem memAppend_cursor (s : State) (b : Byte) : (memAppend s b).cursor = s.cursor := rfl
@[simp] theorem memAppend_slots (s : State) (b : Byte) : (memAppend s b).slots = s.slots := rfl
@[simp] theorem memAppend_nearest (s : State) (b : Byte) : (memAppend s b).nearest = s.nearest := rfl
@[simp] theorem memAppend_framesParsed (s : State) (b : Byte) : (memAppend s b).framesParsed = s.framesParsed := rfl
@[simp] theorem memAppend_framesBad (s : State) (b : Byte) : (memAppend s b).framesBad = s.framesBad := rfl
@[simp] theorem memAppend_bytesPending (s : State) (b : Byte) : (memAppend s b).bytesPending = s.bytesPending := rfl
@[simp] theorem memAppend_loopDurationMs (s : State) (b : Byte) : (memAppend s b).loopDurationMs = s.loopDurationMs := rfl
@[simp] theorem memAppend_lastSeen (s : State) (b : Byte) : (memAppend s b).lastSeen = s.lastSeen := rfl
@[simp] theorem memAppend_params (s : State) (b : Byte) : (memAppend s b).params = s.params := rfl
@[simp] theorem memAppend_rx (s : State) (b : Byte) : (memAppend s b).rx = s.rx := rfl
@[simp] theorem memAppend_installOffsetDeg (s : State) (b : Byte) : (memAppend s b).installOffsetDeg = s.installOffsetDeg := rfl
@[simp] theorem memAppend_draws (s : State) (b : Byte) : (memAppend s b).draws = s.draws := rfl
@[simp] theorem memAppend_result (s : State) (b : Byte) : (memAppend s b).result = s.result := rfl
@[simp] theorem memAppend_events (s : State) (b : Byte) : (memAppend s b).events = s.events := rfl
@[simp] theorem memAppend_agenda (s : State) (b : Byte) : (memAppend s b).agenda = s.agenda := rfl

/-! ### `dropFront` -/

@[simp] theorem dropFront_buf (d : Nat) (s : State) : (dropFront d s).buf = s.buf.drop d := rfl
@[simp] theorem dropFront_cursor (d : Nat) (s : State) : (dropFront d s).cursor = s.cursor - d := rfl
@[simp] theorem dropFront_slots (d : Nat) (s : State) : (dropFront d s).slots = s.slots := rfl
@[simp] theorem dropFront_nearest (d : Nat) (s : State) : (dropFront d s).nearest = s.nearest := rfl
@[simp] theorem dropFront_framesParsed (d : Nat) (s : State) : (dropFront d s).framesParsed = s.framesParsed := rfl
@[simp] theorem dropFront_framesBad (d : Nat) (s : State) : (dropFront d s).framesBad = s.framesBad := rfl
@[simp] theorem dropFront_bytesPending (d : Nat) (s : State) : (dropFront d s).bytesPending = s.bytesPending := rfl
@[simp] theorem dropFront_loopDurationMs (d : Nat) (s : State) : (dropFront d s).loopDurationMs = s.loopDurationMs := rfl
@[simp] theorem dropFront_lastSeen (d : Nat) (s : State) : (dropFront d s).lastSeen = s.lastSeen := rfl
@[simp] theorem dropFront_params (d : Nat) (s : State) : (dropFront d s).params = s.params := rfl
@[simp] theorem dropFront_rx (d : Nat) (s : State) : (dropFront d s).rx = s.rx := rfl
@[simp] theorem dropFront_installOffsetDeg (d : Nat) (s : State) : (dropFront d s).installOffsetDeg = s.installOffsetDeg := rfl
@[simp] theorem dropFront_draws (d : Nat) (s : State) : (dropFront d s).draws = s.draws := rfl
@[simp] theorem dropFront_result (d : Nat) (s : State) : (dropFront d s).result = s.result := rfl
@[simp] theorem dropFront_events (d : Nat) (s : State) : (dropFront d s).events = s.events := rfl
@[simp] theorem dropFront_agenda (d : Nat) (s : State) : (dropFront d s).agenda = s.agenda := rfl

/-! ### `clearTargets` -/

@[simp] theorem clearTargets_buf (s : State) : (clearTargets s).buf = s.buf := rfl
@[simp] theorem clearTargets_cursor (s : State) : (clearTargets s).cursor = s.cursor := rfl
@[simp] theorem clearTargets_slots (s : State) : (clearTargets s).slots = Slots.allAbsent := rfl
@[simp] theorem clearTargets_nearest (s : State) : (clearTargets s).nearest = 0 := rfl
@[simp] theorem clearTargets_framesParsed (s : State) : (clearTargets s).framesParsed = s.framesParsed := rfl
@[simp] theorem clearTargets_framesBad (s : State) : (clearTargets s).framesBad = s.framesBad := rfl
@[simp] theorem clearTargets_bytesPending (s : State) : (clearTargets s).bytesPending = s.bytesPending := rfl
@[simp] theorem clearTargets_loopDurationMs (s : State) : (clearTargets s).loopDurationMs = s.loopDurationMs := rfl
@[simp] theorem clearTargets_lastSeen (s : State) : (clearTargets s).lastSeen = s.lastSeen := rfl
@[simp] theorem clearTargets_params (s : State) : (clearTargets s).params = s.params := rfl
@[simp] theorem clearTargets_rx (s : State) : (clearTargets s).rx = s.rx := rfl
@[simp] theorem clearTargets_installOffsetDeg (s : State) : (clearTargets s).installOffsetDeg = s.installOffsetDeg := rfl
@[simp] theorem clearTargets_draws (s : State) : (clearTargets s).draws = s.draws := rfl
@[simp] theorem clearTargets_result (s : State) : (clearTargets s).result = s.result := rfl
@[simp] theorem clearTargets_events (s : State) : (clearTargets s).events = s.events := rfl
@[simp] theorem clearTargets_agenda (s : State) : (clearTargets s).agenda = s.agenda := rfl

/-! ### `stampLastSeen` -/

@[simp] theorem stampLastSeen_buf (s : State) : (stampLastSeen s).buf = s.buf := rfl
@[simp] theorem stampLastSeen_cursor (s : State) : (stampLastSeen s).cursor = s.cursor := rfl
@[simp] theorem stampLastSeen_slots (s : State) : (stampLastSeen s).slots = s.slots := rfl
@[simp] theorem stampLastSeen_nearest (s : State) : (stampLastSeen s).nearest = s.nearest := rfl
@[simp] theorem stampLastSeen_framesParsed (s : State) : (stampLastSeen s).framesParsed = s.framesParsed := rfl
@[simp] theorem stampLastSeen_framesBad (s : State) : (stampLastSeen s).framesBad = s.framesBad := rfl
@[simp] theorem stampLastSeen_bytesPending (s : State) : (stampLastSeen s).bytesPending = s.bytesPending := rfl
@[simp] theorem stampLastSeen_loopDurationMs (s : State) : (stampLastSeen s).loopDurationMs = s.loopDurationMs := rfl
@[simp] theorem stampLastSeen_lastSeen (s : State) : (stampLastSeen s).lastSeen = some (Config.NOW s.draws) := rfl
@[simp] theorem stampLastSeen_params (s : State) : (stampLastSeen s).params = s.params := rfl
@[simp] theorem stampLastSeen_rx (s : State) : (stampLastSeen s).rx = s.rx := rfl
@[simp] theorem stampLastSeen_installOffsetDeg (s : State) : (stampLastSeen s).installOffsetDeg = s.installOffsetDeg := rfl
@[simp] theorem stampLastSeen_draws (s : State) : (stampLastSeen s).draws = s.draws + 1 := rfl
@[simp] theorem stampLastSeen_result (s : State) : (stampLastSeen s).result = s.result := rfl
@[simp] theorem stampLastSeen_events (s : State) : (stampLastSeen s).events = s.events := rfl
@[simp] theorem stampLastSeen_agenda (s : State) : (stampLastSeen s).agenda = s.agenda := rfl

/-! ### `sampleDuration` -/

@[simp] theorem sampleDuration_buf (s : State) : (sampleDuration s).buf = s.buf := rfl
@[simp] theorem sampleDuration_cursor (s : State) : (sampleDuration s).cursor = s.cursor := rfl
@[simp] theorem sampleDuration_slots (s : State) : (sampleDuration s).slots = s.slots := rfl
@[simp] theorem sampleDuration_nearest (s : State) : (sampleDuration s).nearest = s.nearest := rfl
@[simp] theorem sampleDuration_framesParsed (s : State) : (sampleDuration s).framesParsed = s.framesParsed := rfl
@[simp] theorem sampleDuration_framesBad (s : State) : (sampleDuration s).framesBad = s.framesBad := rfl
@[simp] theorem sampleDuration_bytesPending (s : State) : (sampleDuration s).bytesPending = s.bytesPending := rfl
@[simp] theorem sampleDuration_loopDurationMs (s : State) : (sampleDuration s).loopDurationMs = Config.duration s.draws := rfl
@[simp] theorem sampleDuration_lastSeen (s : State) : (sampleDuration s).lastSeen = s.lastSeen := rfl
@[simp] theorem sampleDuration_params (s : State) : (sampleDuration s).params = s.params := rfl
@[simp] theorem sampleDuration_rx (s : State) : (sampleDuration s).rx = s.rx := rfl
@[simp] theorem sampleDuration_installOffsetDeg (s : State) : (sampleDuration s).installOffsetDeg = s.installOffsetDeg := rfl
@[simp] theorem sampleDuration_draws (s : State) : (sampleDuration s).draws = s.draws + 1 := rfl
@[simp] theorem sampleDuration_result (s : State) : (sampleDuration s).result = s.result := rfl
@[simp] theorem sampleDuration_events (s : State) : (sampleDuration s).events = s.events := rfl
@[simp] theorem sampleDuration_agenda (s : State) : (sampleDuration s).agenda = s.agenda := rfl

/-! ### `samplePending` -/

@[simp] theorem samplePending_buf (s : State) : (samplePending s).buf = s.buf := rfl
@[simp] theorem samplePending_cursor (s : State) : (samplePending s).cursor = s.cursor := rfl
@[simp] theorem samplePending_slots (s : State) : (samplePending s).slots = s.slots := rfl
@[simp] theorem samplePending_nearest (s : State) : (samplePending s).nearest = s.nearest := rfl
@[simp] theorem samplePending_framesParsed (s : State) : (samplePending s).framesParsed = s.framesParsed := rfl
@[simp] theorem samplePending_framesBad (s : State) : (samplePending s).framesBad = s.framesBad := rfl
@[simp] theorem samplePending_bytesPending (s : State) : (samplePending s).bytesPending = pendingUnread s := rfl
@[simp] theorem samplePending_loopDurationMs (s : State) : (samplePending s).loopDurationMs = s.loopDurationMs := rfl
@[simp] theorem samplePending_lastSeen (s : State) : (samplePending s).lastSeen = s.lastSeen := rfl
@[simp] theorem samplePending_params (s : State) : (samplePending s).params = s.params := rfl
@[simp] theorem samplePending_rx (s : State) : (samplePending s).rx = s.rx := rfl
@[simp] theorem samplePending_installOffsetDeg (s : State) : (samplePending s).installOffsetDeg = s.installOffsetDeg := rfl
@[simp] theorem samplePending_draws (s : State) : (samplePending s).draws = s.draws := rfl
@[simp] theorem samplePending_result (s : State) : (samplePending s).result = s.result := rfl
@[simp] theorem samplePending_events (s : State) : (samplePending s).events = s.events := rfl
@[simp] theorem samplePending_agenda (s : State) : (samplePending s).agenda = s.agenda := rfl

/-! ### `recordEvent` -/

@[simp] theorem recordEvent_buf (e : Event) (s : State) : (recordEvent e s).buf = s.buf := rfl
@[simp] theorem recordEvent_cursor (e : Event) (s : State) : (recordEvent e s).cursor = s.cursor := rfl
@[simp] theorem recordEvent_slots (e : Event) (s : State) : (recordEvent e s).slots = s.slots := rfl
@[simp] theorem recordEvent_nearest (e : Event) (s : State) : (recordEvent e s).nearest = s.nearest := rfl
@[simp] theorem recordEvent_framesParsed (e : Event) (s : State) : (recordEvent e s).framesParsed = s.framesParsed := rfl
@[simp] theorem recordEvent_framesBad (e : Event) (s : State) : (recordEvent e s).framesBad = s.framesBad := rfl
@[simp] theorem recordEvent_bytesPending (e : Event) (s : State) : (recordEvent e s).bytesPending = s.bytesPending := rfl
@[simp] theorem recordEvent_loopDurationMs (e : Event) (s : State) : (recordEvent e s).loopDurationMs = s.loopDurationMs := rfl
@[simp] theorem recordEvent_lastSeen (e : Event) (s : State) : (recordEvent e s).lastSeen = s.lastSeen := rfl
@[simp] theorem recordEvent_params (e : Event) (s : State) : (recordEvent e s).params = s.params := rfl
@[simp] theorem recordEvent_rx (e : Event) (s : State) : (recordEvent e s).rx = s.rx := rfl
@[simp] theorem recordEvent_installOffsetDeg (e : Event) (s : State) : (recordEvent e s).installOffsetDeg = s.installOffsetDeg := rfl
@[simp] theorem recordEvent_draws (e : Event) (s : State) : (recordEvent e s).draws = s.draws := rfl
@[simp] theorem recordEvent_result (e : Event) (s : State) : (recordEvent e s).result = s.result := rfl
@[simp] theorem recordEvent_events (e : Event) (s : State) : (recordEvent e s).events = e :: s.events := rfl
@[simp] theorem recordEvent_agenda (e : Event) (s : State) : (recordEvent e s).agenda = s.agenda := rfl

/-! ### `returnValue` -/

@[simp] theorem returnValue_buf (r : OpResult) (s : State) : (returnValue r s).buf = s.buf := rfl
@[simp] theorem returnValue_cursor (r : OpResult) (s : State) : (returnValue r s).cursor = s.cursor := rfl
@[simp] theorem returnValue_slots (r : OpResult) (s : State) : (returnValue r s).slots = s.slots := rfl
@[simp] theorem returnValue_nearest (r : OpResult) (s : State) : (returnValue r s).nearest = s.nearest := rfl
@[simp] theorem returnValue_framesParsed (r : OpResult) (s : State) : (returnValue r s).framesParsed = s.framesParsed := rfl
@[simp] theorem returnValue_framesBad (r : OpResult) (s : State) : (returnValue r s).framesBad = s.framesBad := rfl
@[simp] theorem returnValue_bytesPending (r : OpResult) (s : State) : (returnValue r s).bytesPending = s.bytesPending := rfl
@[simp] theorem returnValue_loopDurationMs (r : OpResult) (s : State) : (returnValue r s).loopDurationMs = s.loopDurationMs := rfl
@[simp] theorem returnValue_lastSeen (r : OpResult) (s : State) : (returnValue r s).lastSeen = s.lastSeen := rfl
@[simp] theorem returnValue_params (r : OpResult) (s : State) : (returnValue r s).params = s.params := rfl
@[simp] theorem returnValue_rx (r : OpResult) (s : State) : (returnValue r s).rx = s.rx := rfl
@[simp] theorem returnValue_installOffsetDeg (r : OpResult) (s : State) : (returnValue r s).installOffsetDeg = s.installOffsetDeg := rfl
@[simp] theorem returnValue_draws (r : OpResult) (s : State) : (returnValue r s).draws = s.draws := rfl
@[simp] theorem returnValue_result (r : OpResult) (s : State) : (returnValue r s).result = r := rfl
@[simp] theorem returnValue_events (r : OpResult) (s : State) : (returnValue r s).events = s.events := rfl
@[simp] theorem returnValue_agenda (r : OpResult) (s : State) : (returnValue r s).agenda = s.agenda := rfl

/-! ### `resetArchitectural` -/

@[simp] theorem resetArchitectural_buf (s : State) : (resetArchitectural s).buf = [] := rfl
@[simp] theorem resetArchitectural_cursor (s : State) : (resetArchitectural s).cursor = 0 := rfl
@[simp] theorem resetArchitectural_slots (s : State) : (resetArchitectural s).slots = Slots.allAbsent := rfl
@[simp] theorem resetArchitectural_nearest (s : State) : (resetArchitectural s).nearest = 0 := rfl
@[simp] theorem resetArchitectural_framesParsed (s : State) : (resetArchitectural s).framesParsed = 0 := rfl
@[simp] theorem resetArchitectural_framesBad (s : State) : (resetArchitectural s).framesBad = 0 := rfl
@[simp] theorem resetArchitectural_bytesPending (s : State) : (resetArchitectural s).bytesPending = 0 := rfl
@[simp] theorem resetArchitectural_loopDurationMs (s : State) : (resetArchitectural s).loopDurationMs = 0 := rfl
@[simp] theorem resetArchitectural_lastSeen (s : State) : (resetArchitectural s).lastSeen = none := rfl
@[simp] theorem resetArchitectural_params (s : State) : (resetArchitectural s).params = s.params := rfl
@[simp] theorem resetArchitectural_rx (s : State) : (resetArchitectural s).rx = s.rx := rfl
@[simp] theorem resetArchitectural_installOffsetDeg (s : State) : (resetArchitectural s).installOffsetDeg = s.installOffsetDeg := rfl
@[simp] theorem resetArchitectural_draws (s : State) : (resetArchitectural s).draws = s.draws := rfl
@[simp] theorem resetArchitectural_result (s : State) : (resetArchitectural s).result = s.result := rfl
@[simp] theorem resetArchitectural_events (s : State) : (resetArchitectural s).events = s.events := rfl
@[simp] theorem resetArchitectural_agenda (s : State) : (resetArchitectural s).agenda = s.agenda := rfl

/-! ### `deliver` -/

@[simp] theorem deliver_buf (bytes : List Byte) (s : State) : (s.deliver bytes).buf = s.buf := rfl
@[simp] theorem deliver_cursor (bytes : List Byte) (s : State) : (s.deliver bytes).cursor = s.cursor := rfl
@[simp] theorem deliver_slots (bytes : List Byte) (s : State) : (s.deliver bytes).slots = s.slots := rfl
@[simp] theorem deliver_nearest (bytes : List Byte) (s : State) : (s.deliver bytes).nearest = s.nearest := rfl
@[simp] theorem deliver_framesParsed (bytes : List Byte) (s : State) : (s.deliver bytes).framesParsed = s.framesParsed := rfl
@[simp] theorem deliver_framesBad (bytes : List Byte) (s : State) : (s.deliver bytes).framesBad = s.framesBad := rfl
@[simp] theorem deliver_bytesPending (bytes : List Byte) (s : State) : (s.deliver bytes).bytesPending = s.bytesPending := rfl
@[simp] theorem deliver_loopDurationMs (bytes : List Byte) (s : State) : (s.deliver bytes).loopDurationMs = s.loopDurationMs := rfl
@[simp] theorem deliver_lastSeen (bytes : List Byte) (s : State) : (s.deliver bytes).lastSeen = s.lastSeen := rfl
@[simp] theorem deliver_params (bytes : List Byte) (s : State) : (s.deliver bytes).params = s.params := rfl
@[simp] theorem deliver_rx (bytes : List Byte) (s : State) : (s.deliver bytes).rx = s.rx ++ bytes := rfl
@[simp] theorem deliver_installOffsetDeg (bytes : List Byte) (s : State) : (s.deliver bytes).installOffsetDeg = s.installOffsetDeg := rfl
@[simp] theorem deliver_draws (bytes : List Byte) (s : State) : (s.deliver bytes).draws = s.draws := rfl
@[simp] theorem deliver_result (bytes : List Byte) (s : State) : (s.deliver bytes).result = s.result := rfl
@[simp] theorem deliver_events (bytes : List Byte) (s : State) : (s.deliver bytes).events = s.events := rfl
@[simp] theorem deliver_agenda (bytes : List Byte) (s : State) : (s.deliver bytes).agenda = s.agenda := rfl

/-! ### `setInstallOffset` -/

@[simp] theorem setInstallOffset_buf (a : InstallAngle) (s : State) : (s.setInstallOffset a).buf = s.buf := rfl
@[simp] theorem setInstallOffset_cursor (a : InstallAngle) (s : State) : (s.setInstallOffset a).cursor = s.cursor := rfl
@[simp] theorem setInstallOffset_slots (a : InstallAngle) (s : State) : (s.setInstallOffset a).slots = s.slots := rfl
@[simp] theorem setInstallOffset_nearest (a : InstallAngle) (s : State) : (s.setInstallOffset a).nearest = s.nearest := rfl
@[simp] theorem setInstallOffset_framesParsed (a : InstallAngle) (s : State) : (s.setInstallOffset a).framesParsed = s.framesParsed := rfl
@[simp] theorem setInstallOffset_framesBad (a : InstallAngle) (s : State) : (s.setInstallOffset a).framesBad = s.framesBad := rfl
@[simp] theorem setInstallOffset_bytesPending (a : InstallAngle) (s : State) : (s.setInstallOffset a).bytesPending = s.bytesPending := rfl
@[simp] theorem setInstallOffset_loopDurationMs (a : InstallAngle) (s : State) : (s.setInstallOffset a).loopDurationMs = s.loopDurationMs := rfl
@[simp] theorem setInstallOffset_lastSeen (a : InstallAngle) (s : State) : (s.setInstallOffset a).lastSeen = s.lastSeen := rfl
@[simp] theorem setInstallOffset_params (a : InstallAngle) (s : State) : (s.setInstallOffset a).params = s.params := rfl
@[simp] theorem setInstallOffset_rx (a : InstallAngle) (s : State) : (s.setInstallOffset a).rx = s.rx := rfl
@[simp] theorem setInstallOffset_installOffsetDeg (a : InstallAngle) (s : State) : (s.setInstallOffset a).installOffsetDeg = a := rfl
@[simp] theorem setInstallOffset_draws (a : InstallAngle) (s : State) : (s.setInstallOffset a).draws = s.draws := rfl
@[simp] theorem setInstallOffset_result (a : InstallAngle) (s : State) : (s.setInstallOffset a).result = s.result := rfl
@[simp] theorem setInstallOffset_events (a : InstallAngle) (s : State) : (s.setInstallOffset a).events = s.events := rfl
@[simp] theorem setInstallOffset_agenda (a : InstallAngle) (s : State) : (s.setInstallOffset a).agenda = s.agenda := rfl

/-! ### `issue` -/

@[simp] theorem issue_buf (i : Instr) (s : State) : (s.issue i).buf = s.buf := rfl
@[simp] theorem issue_cursor (i : Instr) (s : State) : (s.issue i).cursor = s.cursor := rfl
@[simp] theorem issue_slots (i : Instr) (s : State) : (s.issue i).slots = s.slots := rfl
@[simp] theorem issue_nearest (i : Instr) (s : State) : (s.issue i).nearest = s.nearest := rfl
@[simp] theorem issue_framesParsed (i : Instr) (s : State) : (s.issue i).framesParsed = s.framesParsed := rfl
@[simp] theorem issue_framesBad (i : Instr) (s : State) : (s.issue i).framesBad = s.framesBad := rfl
@[simp] theorem issue_bytesPending (i : Instr) (s : State) : (s.issue i).bytesPending = s.bytesPending := rfl
@[simp] theorem issue_loopDurationMs (i : Instr) (s : State) : (s.issue i).loopDurationMs = s.loopDurationMs := rfl
@[simp] theorem issue_lastSeen (i : Instr) (s : State) : (s.issue i).lastSeen = s.lastSeen := rfl
@[simp] theorem issue_params (i : Instr) (s : State) : (s.issue i).params = s.params := rfl
@[simp] theorem issue_rx (i : Instr) (s : State) : (s.issue i).rx = s.rx := rfl
@[simp] theorem issue_installOffsetDeg (i : Instr) (s : State) : (s.issue i).installOffsetDeg = s.installOffsetDeg := rfl
@[simp] theorem issue_draws (i : Instr) (s : State) : (s.issue i).draws = s.draws := rfl
@[simp] theorem issue_result (i : Instr) (s : State) : (s.issue i).result = s.result := rfl
@[simp] theorem issue_events (i : Instr) (s : State) : (s.issue i).events = s.events := rfl
@[simp] theorem issue_agenda (i : Instr) (s : State) : (s.issue i).agenda = s.agenda ++ [.word (encode i)] := rfl

/-! ### `setSlot` -/

@[simp] theorem setSlot_buf (j : TargetIdx) (t : Slot) (s : State) : (setSlot j t s).buf = s.buf := by cases j <;> rfl
@[simp] theorem setSlot_cursor (j : TargetIdx) (t : Slot) (s : State) : (setSlot j t s).cursor = s.cursor := by cases j <;> rfl
@[simp] theorem setSlot_nearest (j : TargetIdx) (t : Slot) (s : State) : (setSlot j t s).nearest = s.nearest := by cases j <;> rfl
@[simp] theorem setSlot_framesParsed (j : TargetIdx) (t : Slot) (s : State) : (setSlot j t s).framesParsed = s.framesParsed := by cases j <;> rfl
@[simp] theorem setSlot_framesBad (j : TargetIdx) (t : Slot) (s : State) : (setSlot j t s).framesBad = s.framesBad := by cases j <;> rfl
@[simp] theorem setSlot_bytesPending (j : TargetIdx) (t : Slot) (s : State) : (setSlot j t s).bytesPending = s.bytesPending := by cases j <;> rfl
@[simp] theorem setSlot_loopDurationMs (j : TargetIdx) (t : Slot) (s : State) : (setSlot j t s).loopDurationMs = s.loopDurationMs := by cases j <;> rfl
@[simp] theorem setSlot_lastSeen (j : TargetIdx) (t : Slot) (s : State) : (setSlot j t s).lastSeen = s.lastSeen := by cases j <;> rfl
@[simp] theorem setSlot_params (j : TargetIdx) (t : Slot) (s : State) : (setSlot j t s).params = s.params := by cases j <;> rfl
@[simp] theorem setSlot_rx (j : TargetIdx) (t : Slot) (s : State) : (setSlot j t s).rx = s.rx := by cases j <;> rfl
@[simp] theorem setSlot_installOffsetDeg (j : TargetIdx) (t : Slot) (s : State) : (setSlot j t s).installOffsetDeg = s.installOffsetDeg := by cases j <;> rfl
@[simp] theorem setSlot_draws (j : TargetIdx) (t : Slot) (s : State) : (setSlot j t s).draws = s.draws := by cases j <;> rfl
@[simp] theorem setSlot_result (j : TargetIdx) (t : Slot) (s : State) : (setSlot j t s).result = s.result := by cases j <;> rfl
@[simp] theorem setSlot_events (j : TargetIdx) (t : Slot) (s : State) : (setSlot j t s).events = s.events := by cases j <;> rfl
@[simp] theorem setSlot_agenda (j : TargetIdx) (t : Slot) (s : State) : (setSlot j t s).agenda = s.agenda := by cases j <;> rfl

/-- A write of a slot is read back from it, and from it alone (R7, R134). -/
theorem setSlot_slot (j k : TargetIdx) (t : Slot) (s : State) :
    (setSlot j t s).slot k = if k = j then t else s.slot k := by cases j <;> cases k <;> rfl

@[simp] theorem setSlot_slot_same (j : TargetIdx) (t : Slot) (s : State) : (setSlot j t s).slot j = t := by
  simp [setSlot_slot]

/-! ### `updateNearest`, `noteAbsent`, `storeTarget` -/

@[simp] theorem updateNearest_buf (r : F) (s : State) : (updateNearest r s).buf = s.buf := rfl
@[simp] theorem updateNearest_cursor (r : F) (s : State) : (updateNearest r s).cursor = s.cursor := rfl
@[simp] theorem updateNearest_slots (r : F) (s : State) : (updateNearest r s).slots = s.slots := rfl
@[simp] theorem updateNearest_nearest (r : F) (s : State) : (updateNearest r s).nearest = nearer s.nearest r := rfl
@[simp] theorem updateNearest_framesParsed (r : F) (s : State) : (updateNearest r s).framesParsed = s.framesParsed := rfl
@[simp] theorem updateNearest_framesBad (r : F) (s : State) : (updateNearest r s).framesBad = s.framesBad := rfl
@[simp] theorem updateNearest_bytesPending (r : F) (s : State) : (updateNearest r s).bytesPending = s.bytesPending := rfl
@[simp] theorem updateNearest_loopDurationMs (r : F) (s : State) : (updateNearest r s).loopDurationMs = s.loopDurationMs := rfl
@[simp] theorem updateNearest_lastSeen (r : F) (s : State) : (updateNearest r s).lastSeen = s.lastSeen := rfl
@[simp] theorem updateNearest_params (r : F) (s : State) : (updateNearest r s).params = s.params := rfl
@[simp] theorem updateNearest_rx (r : F) (s : State) : (updateNearest r s).rx = s.rx := rfl
@[simp] theorem updateNearest_installOffsetDeg (r : F) (s : State) : (updateNearest r s).installOffsetDeg = s.installOffsetDeg := rfl
@[simp] theorem updateNearest_draws (r : F) (s : State) : (updateNearest r s).draws = s.draws := rfl
@[simp] theorem updateNearest_result (r : F) (s : State) : (updateNearest r s).result = s.result := rfl
@[simp] theorem updateNearest_events (r : F) (s : State) : (updateNearest r s).events = s.events := rfl
@[simp] theorem updateNearest_agenda (r : F) (s : State) : (updateNearest r s).agenda = s.agenda := rfl

@[simp] theorem noteAbsent_buf (j : TargetIdx) (t : Slot) (s : State) : (noteAbsent j t s).buf = s.buf := by cases t <;> rfl
@[simp] theorem noteAbsent_cursor (j : TargetIdx) (t : Slot) (s : State) : (noteAbsent j t s).cursor = s.cursor := by cases t <;> rfl
@[simp] theorem noteAbsent_slots (j : TargetIdx) (t : Slot) (s : State) : (noteAbsent j t s).slots = s.slots := by cases t <;> rfl
@[simp] theorem noteAbsent_nearest (j : TargetIdx) (t : Slot) (s : State) : (noteAbsent j t s).nearest = s.nearest := by cases t <;> rfl
@[simp] theorem noteAbsent_framesParsed (j : TargetIdx) (t : Slot) (s : State) : (noteAbsent j t s).framesParsed = s.framesParsed := by cases t <;> rfl
@[simp] theorem noteAbsent_framesBad (j : TargetIdx) (t : Slot) (s : State) : (noteAbsent j t s).framesBad = s.framesBad := by cases t <;> rfl
@[simp] theorem noteAbsent_bytesPending (j : TargetIdx) (t : Slot) (s : State) : (noteAbsent j t s).bytesPending = s.bytesPending := by cases t <;> rfl
@[simp] theorem noteAbsent_loopDurationMs (j : TargetIdx) (t : Slot) (s : State) : (noteAbsent j t s).loopDurationMs = s.loopDurationMs := by cases t <;> rfl
@[simp] theorem noteAbsent_lastSeen (j : TargetIdx) (t : Slot) (s : State) : (noteAbsent j t s).lastSeen = s.lastSeen := by cases t <;> rfl
@[simp] theorem noteAbsent_params (j : TargetIdx) (t : Slot) (s : State) : (noteAbsent j t s).params = s.params := by cases t <;> rfl
@[simp] theorem noteAbsent_rx (j : TargetIdx) (t : Slot) (s : State) : (noteAbsent j t s).rx = s.rx := by cases t <;> rfl
@[simp] theorem noteAbsent_installOffsetDeg (j : TargetIdx) (t : Slot) (s : State) : (noteAbsent j t s).installOffsetDeg = s.installOffsetDeg := by cases t <;> rfl
@[simp] theorem noteAbsent_draws (j : TargetIdx) (t : Slot) (s : State) : (noteAbsent j t s).draws = s.draws := by cases t <;> rfl
@[simp] theorem noteAbsent_result (j : TargetIdx) (t : Slot) (s : State) : (noteAbsent j t s).result = s.result := by cases t <;> rfl
@[simp] theorem noteAbsent_agenda (j : TargetIdx) (t : Slot) (s : State) : (noteAbsent j t s).agenda = s.agenda := by cases t <;> rfl

@[simp] theorem storeTarget_buf (j : TargetIdx) (t : Slot) (s : State) : (storeTarget j t s).buf = s.buf := by cases t <;> simp [storeTarget]
@[simp] theorem storeTarget_cursor (j : TargetIdx) (t : Slot) (s : State) : (storeTarget j t s).cursor = s.cursor := by cases t <;> simp [storeTarget]
@[simp] theorem storeTarget_framesParsed (j : TargetIdx) (t : Slot) (s : State) : (storeTarget j t s).framesParsed = s.framesParsed := by cases t <;> simp [storeTarget]
@[simp] theorem storeTarget_framesBad (j : TargetIdx) (t : Slot) (s : State) : (storeTarget j t s).framesBad = s.framesBad := by cases t <;> simp [storeTarget]
@[simp] theorem storeTarget_bytesPending (j : TargetIdx) (t : Slot) (s : State) : (storeTarget j t s).bytesPending = s.bytesPending := by cases t <;> simp [storeTarget]
@[simp] theorem storeTarget_loopDurationMs (j : TargetIdx) (t : Slot) (s : State) : (storeTarget j t s).loopDurationMs = s.loopDurationMs := by cases t <;> simp [storeTarget]
@[simp] theorem storeTarget_lastSeen (j : TargetIdx) (t : Slot) (s : State) : (storeTarget j t s).lastSeen = s.lastSeen := by cases t <;> simp [storeTarget]
@[simp] theorem storeTarget_params (j : TargetIdx) (t : Slot) (s : State) : (storeTarget j t s).params = s.params := by cases t <;> simp [storeTarget]
@[simp] theorem storeTarget_rx (j : TargetIdx) (t : Slot) (s : State) : (storeTarget j t s).rx = s.rx := by cases t <;> simp [storeTarget]
@[simp] theorem storeTarget_installOffsetDeg (j : TargetIdx) (t : Slot) (s : State) : (storeTarget j t s).installOffsetDeg = s.installOffsetDeg := by cases t <;> simp [storeTarget]
@[simp] theorem storeTarget_draws (j : TargetIdx) (t : Slot) (s : State) : (storeTarget j t s).draws = s.draws := by cases t <;> simp [storeTarget]
@[simp] theorem storeTarget_result (j : TargetIdx) (t : Slot) (s : State) : (storeTarget j t s).result = s.result := by cases t <;> simp [storeTarget]
@[simp] theorem storeTarget_agenda (j : TargetIdx) (t : Slot) (s : State) : (storeTarget j t s).agenda = s.agenda := by cases t <;> simp [storeTarget]

@[simp] theorem storeTargets_buf (ts : Slots) (s : State) : (storeTargets ts s).buf = s.buf := by simp [storeTargets]
@[simp] theorem storeTargets_cursor (ts : Slots) (s : State) : (storeTargets ts s).cursor = s.cursor := by simp [storeTargets]
@[simp] theorem storeTargets_framesParsed (ts : Slots) (s : State) : (storeTargets ts s).framesParsed = s.framesParsed := by simp [storeTargets]
@[simp] theorem storeTargets_framesBad (ts : Slots) (s : State) : (storeTargets ts s).framesBad = s.framesBad := by simp [storeTargets]
@[simp] theorem storeTargets_bytesPending (ts : Slots) (s : State) : (storeTargets ts s).bytesPending = s.bytesPending := by simp [storeTargets]
@[simp] theorem storeTargets_loopDurationMs (ts : Slots) (s : State) : (storeTargets ts s).loopDurationMs = s.loopDurationMs := by simp [storeTargets]
@[simp] theorem storeTargets_lastSeen (ts : Slots) (s : State) : (storeTargets ts s).lastSeen = s.lastSeen := by simp [storeTargets]
@[simp] theorem storeTargets_params (ts : Slots) (s : State) : (storeTargets ts s).params = s.params := by simp [storeTargets]
@[simp] theorem storeTargets_rx (ts : Slots) (s : State) : (storeTargets ts s).rx = s.rx := by simp [storeTargets]
@[simp] theorem storeTargets_installOffsetDeg (ts : Slots) (s : State) : (storeTargets ts s).installOffsetDeg = s.installOffsetDeg := by simp [storeTargets]
@[simp] theorem storeTargets_draws (ts : Slots) (s : State) : (storeTargets ts s).draws = s.draws := by simp [storeTargets]
@[simp] theorem storeTargets_result (ts : Slots) (s : State) : (storeTargets ts s).result = s.result := by simp [storeTargets]
@[simp] theorem storeTargets_agenda (ts : Slots) (s : State) : (storeTargets ts s).agenda = s.agenda := by simp [storeTargets]

/-! ### `compact` -/

@[simp] theorem compact_slots (s : State) : (compact s).slots = s.slots := by unfold compact; split <;> rfl
@[simp] theorem compact_nearest (s : State) : (compact s).nearest = s.nearest := by unfold compact; split <;> rfl
@[simp] theorem compact_framesParsed (s : State) : (compact s).framesParsed = s.framesParsed := by unfold compact; split <;> rfl
@[simp] theorem compact_framesBad (s : State) : (compact s).framesBad = s.framesBad := by unfold compact; split <;> rfl
@[simp] theorem compact_bytesPending (s : State) : (compact s).bytesPending = s.bytesPending := by unfold compact; split <;> rfl
@[simp] theorem compact_loopDurationMs (s : State) : (compact s).loopDurationMs = s.loopDurationMs := by unfold compact; split <;> rfl
@[simp] theorem compact_lastSeen (s : State) : (compact s).lastSeen = s.lastSeen := by unfold compact; split <;> rfl
@[simp] theorem compact_params (s : State) : (compact s).params = s.params := by unfold compact; split <;> rfl
@[simp] theorem compact_rx (s : State) : (compact s).rx = s.rx := by unfold compact; split <;> rfl
@[simp] theorem compact_installOffsetDeg (s : State) : (compact s).installOffsetDeg = s.installOffsetDeg := by unfold compact; split <;> rfl
@[simp] theorem compact_draws (s : State) : (compact s).draws = s.draws := by unfold compact; split <;> rfl
@[simp] theorem compact_result (s : State) : (compact s).result = s.result := by unfold compact; split <;> rfl
@[simp] theorem compact_agenda (s : State) : (compact s).agenda = s.agenda := by unfold compact; split <;> rfl

end Sys2Proof.Machine
end

