-- ==== Sys2Proof/Laws/Numeric.lean ====
section
/-! SUPPORT. The integer square root, the bounded error and the range (R116, R127). -/

namespace Sys2Proof.Machine

/-! ### The integer square root -/

theorem isqrtBits_sq_le (n k r : Nat) (h : r * r ≤ n) : isqrtBits n k r * isqrtBits n k r ≤ n := by
  induction k generalizing r with
  | zero => exact h
  | succ k ih =>
    rw [isqrtBits]
    split
    · exact ih _ ‹_›
    · exact ih _ h

theorem lt_isqrtBits_succ_sq (n k r : Nat) (h : n < (r + 2 ^ k) * (r + 2 ^ k)) :
    n < (isqrtBits n k r + 1) * (isqrtBits n k r + 1) := by
  induction k generalizing r with
  | zero => simpa [isqrtBits] using h
  | succ k ih =>
    rw [isqrtBits]
    split
    · exact ih _ (by rw [Nat.add_assoc, ← Nat.two_mul, ← Nat.pow_succ']; exact h)
    · exact ih _ (by omega)

/-- `isqrt n` is the largest number whose square is at most `n`. -/
theorem isqrt_sq_le (n : Nat) : isqrt n * isqrt n ≤ n := isqrtBits_sq_le n _ 0 (by simp)

theorem lt_isqrt_succ_sq (n : Nat) : n < (isqrt n + 1) * (isqrt n + 1) := by
  apply lt_isqrtBits_succ_sq
  have h1 : n < 2 ^ (n.log2 + 1) := Nat.lt_log2_self
  have h2 : 2 ^ (n.log2 + 1) ≤ 2 ^ ((n.log2 / 2 + 1) + (n.log2 / 2 + 1)) := Nat.pow_le_pow_right (by norm_num) (by omega)
  simpa [← Nat.pow_add] using lt_of_lt_of_le h1 h2

theorem isqrt_mul_self (r : Nat) : isqrt (r * r) = r := by
  have h1 := isqrt_sq_le (r * r)
  have h2 := lt_isqrt_succ_sq (r * r)
  have h3 : isqrt (r * r) ≤ r := Nat.mul_self_le_mul_self_iff.1 h1
  have h4 : r < isqrt (r * r) + 1 := Nat.mul_self_lt_mul_self_iff.1 h2
  omega

/-- The largest root is above every number whose square is at most `n`. -/
theorem le_isqrt {r n : Nat} (h : r * r ≤ n) : r ≤ isqrt n := by
  have := lt_of_le_of_lt h (lt_isqrt_succ_sq n)
  have := Nat.mul_self_lt_mul_self_iff.1 this
  omega

/-! ### The bounded error (log entry 3) -/

theorem boundedError_abs_le {bound : F} (h : 0 ≤ bound) (e : F) : |boundedError bound e| ≤ bound := by
  unfold boundedError
  split
  · rw [abs_neg, abs_of_nonneg h]
  · split
    · exact (abs_of_nonneg h).le
    · rw [abs_le]
      constructor <;> linarith

/-- Every error within the bound is a value the free error can take. -/
theorem boundedError_of_abs_le {bound e : F} (h : |e| ≤ bound) : boundedError bound e = e := by
  rw [abs_le] at h
  unfold boundedError
  rw [if_neg (by linarith), if_neg (by linarith)]

theorem storedErrorBound_eq : storedErrorBound = 1001 / 1000000 := by
  norm_num [storedErrorBound, Config.fltTolerance, Config.approxSlack]

/-! ### Range (R127) -/

theorem normSq_cast (x y : Int) : (normSq x y : Int) = x ^ 2 + y ^ 2 := by
  simp [normSq, pow_two]

/-- The rational stand-in lies within 1e-9 below `sqrt(n) / 1000`. -/
theorem rangeApprox_bounds (n : Nat) :
    ((rangeApprox n : F) : ℝ) ≤ Real.sqrt n / 1000 ∧ Real.sqrt n / 1000 ≤ ((rangeApprox n : F) : ℝ) + 1 / 10 ^ 9 := by
  have h1 := isqrt_sq_le (n * 10 ^ 12)
  have h2 := lt_isqrt_succ_sq (n * 10 ^ 12)
  set r := isqrt (n * 10 ^ 12)
  have hs : Real.sqrt ((n * 10 ^ 12 : Nat) : ℝ) = Real.sqrt n * 10 ^ 6 := by
    push_cast
    rw [Real.sqrt_mul (by positivity), show (1000000000000 : ℝ) = (10 ^ 6) ^ 2 by norm_num, Real.sqrt_sq (by positivity)]
  have lo : (r : ℝ) ≤ Real.sqrt n * 10 ^ 6 := by
    rw [← hs]
    apply Real.le_sqrt_of_sq_le
    rw [pow_two]
    exact_mod_cast h1
  have hi : Real.sqrt n * 10 ^ 6 ≤ r + 1 := by
    rw [← hs]
    apply Real.sqrt_le_iff.2
    refine ⟨by positivity, ?_⟩
    rw [pow_two]
    exact_mod_cast h2.le
  have hc : ((rangeApprox n : F) : ℝ) = (r : ℝ) / 10 ^ 9 := by
    simp [rangeApprox, r]
  rw [hc]
  constructor
  · rw [div_le_div_iff₀ (by positivity) (by positivity)]
    linarith
  · rw [← add_div, div_le_div_iff₀ (by positivity) (by positivity)]
    linarith

end Sys2Proof.Machine
end

