-- ==== Sys2Proof/Laws/Angle.lean ====
section
/-! SUPPORT. The arctangent's series and the rational stand-in for an angle of the first quadrant (R128). -/

namespace Sys2Proof.Machine

/-- The series as a real polynomial. -/
theorem atanSeries_cast (u : F) :
    ((atanSeries u : F) : ℝ) =
      (u : ℝ) - u ^ 3 / 3 + u ^ 5 / 5 - u ^ 7 / 7 + u ^ 9 / 9 - u ^ 11 / 11 + u ^ 13 / 13 - u ^ 15 / 15 + u ^ 17 / 17
        - u ^ 19 / 19 := by
  simp only [atanSeries]
  push_cast
  ring

/-- A function that vanishes at 0 and grows is not negative beyond 0. -/
theorem nonneg_of_deriv_nonneg {f f' : ℝ → ℝ} (h0 : f 0 = 0) (hd : ∀ x, HasDerivAt f (f' x) x)
    (hn : ∀ x, 0 ≤ f' x) {u : ℝ} (hu : 0 ≤ u) : 0 ≤ f u := by
  have hm : Monotone f := by
    apply monotone_of_deriv_nonneg (fun x => (hd x).differentiableAt)
    intro x
    rw [(hd x).deriv]
    exact hn x
  simpa [h0] using hm hu

/-- The arctangent lies between the ten-term series and the series with half a term more. -/
theorem arctan_series_bounds {u : ℝ} (hu : 0 ≤ u) :
    0 ≤ Real.arctan u - (u - u ^ 3 / 3 + u ^ 5 / 5 - u ^ 7 / 7 + u ^ 9 / 9 - u ^ 11 / 11 + u ^ 13 / 13 - u ^ 15 / 15
        + u ^ 17 / 17 - u ^ 19 / 19) ∧
      Real.arctan u - (u - u ^ 3 / 3 + u ^ 5 / 5 - u ^ 7 / 7 + u ^ 9 / 9 - u ^ 11 / 11 + u ^ 13 / 13 - u ^ 15 / 15
        + u ^ 17 / 17 - u ^ 19 / 19) ≤ u ^ 21 / 21 := by
  have mono : ∀ (n : ℕ) (x : ℝ), HasDerivAt (fun x : ℝ => x ^ (n + 1) / ((n + 1 : ℕ) : ℝ)) (x ^ n) x := by
    intro n x
    have := (hasDerivAt_pow (n + 1) x).div_const ((n + 1 : ℕ) : ℝ)
    have hn : ((n + 1 : ℕ) : ℝ) ≠ 0 := by positivity
    rwa [mul_comm, mul_div_assoc, div_self hn, mul_one, Nat.add_sub_cancel] at this
  have poly : ∀ x : ℝ, HasDerivAt (fun x : ℝ => x - x ^ 3 / 3 + x ^ 5 / 5 - x ^ 7 / 7 + x ^ 9 / 9 - x ^ 11 / 11
      + x ^ 13 / 13 - x ^ 15 / 15 + x ^ 17 / 17 - x ^ 19 / 19)
      (1 - x ^ 2 + x ^ 4 - x ^ 6 + x ^ 8 - x ^ 10 + x ^ 12 - x ^ 14 + x ^ 16 - x ^ 18) x := by
    intro x
    have h3 := mono 2 x
    have h5 := mono 4 x
    have h7 := mono 6 x
    have h9 := mono 8 x
    have h11 := mono 10 x
    have h13 := mono 12 x
    have h15 := mono 14 x
    have h17 := mono 16 x
    have h19 := mono 18 x
    norm_num at h3 h5 h7 h9 h11 h13 h15 h17 h19
    exact (((((((((hasDerivAt_id x).sub h3).add h5).sub h7).add h9).sub h11).add h13).sub h15).add h17).sub h19
  have at_ : ∀ x : ℝ, HasDerivAt Real.arctan (1 / (1 + x ^ 2)) x := Real.hasDerivAt_arctan
  constructor
  · refine nonneg_of_deriv_nonneg (f := fun u => Real.arctan u - (u - u ^ 3 / 3 + u ^ 5 / 5 - u ^ 7 / 7 + u ^ 9 / 9
        - u ^ 11 / 11 + u ^ 13 / 13 - u ^ 15 / 15 + u ^ 17 / 17 - u ^ 19 / 19)) (by simp)
      (fun x => (at_ x).sub (poly x)) ?_ hu
    intro x
    have : (1 / (1 + x ^ 2) - (1 - x ^ 2 + x ^ 4 - x ^ 6 + x ^ 8 - x ^ 10 + x ^ 12 - x ^ 14 + x ^ 16 - x ^ 18))
        = x ^ 20 / (1 + x ^ 2) := by
      have : (1 + x ^ 2) ≠ 0 := by positivity
      field_simp
      ring
    rw [this]
    positivity
  · have h21 : ∀ x : ℝ, HasDerivAt (fun x : ℝ => x ^ 21 / 21) (x ^ 20) x := by
      intro x
      have := mono 20 x
      norm_num at this
      exact this
    have := nonneg_of_deriv_nonneg (f := fun u => u ^ 21 / 21 - (Real.arctan u - (u - u ^ 3 / 3 + u ^ 5 / 5 - u ^ 7 / 7
        + u ^ 9 / 9 - u ^ 11 / 11 + u ^ 13 / 13 - u ^ 15 / 15 + u ^ 17 / 17 - u ^ 19 / 19))) (by simp)
      (fun x => (h21 x).sub ((at_ x).sub (poly x))) ?_ hu
    · simpa using this
    · intro x
      have : x ^ 20 - (1 / (1 + x ^ 2) - (1 - x ^ 2 + x ^ 4 - x ^ 6 + x ^ 8 - x ^ 10 + x ^ 12 - x ^ 14 + x ^ 16 - x ^ 18))
          = x ^ 22 / (1 + x ^ 2) := by
        have : (1 + x ^ 2) ≠ 0 := by positivity
        field_simp
        ring
      rw [this]
      positivity

/-- `degPerRad` against 180 / π. -/
theorem degPerRad_bounds :
    ((degPerRad : F) : ℝ) ≤ 180 / Real.pi ∧ 180 / Real.pi ≤ ((degPerRad : F) : ℝ) + 1 / 10 ^ 12 := by
  have h1 := Real.pi_gt_d20
  have h2 := Real.pi_lt_d20
  have hp := Real.pi_pos
  have hc : ((degPerRad : F) : ℝ) = 572957795130823 / 10 ^ 13 := by norm_num [degPerRad]
  rw [hc]
  constructor
  · rw [le_div_iff₀ hp]
    linarith
  · rw [div_le_iff₀ hp]
    linarith

/-- A small slope's angle in degrees, to within 1e-7. -/
theorem degPerRad_mul_atanSeries {u : F} (h0 : 0 ≤ u) (h1 : u ≤ 3 / 7) :
    |((degPerRad * atanSeries u : F) : ℝ) - Real.arctan u * 180 / Real.pi| ≤ 1 / 10 ^ 7 := by
  have hu0 : (0 : ℝ) ≤ (u : ℝ) := by exact_mod_cast h0
  have hu1 : (u : ℝ) ≤ 3 / 7 := by
    have : ((u : F) : ℝ) ≤ ((3 / 7 : F) : ℝ) := by exact_mod_cast h1
    simpa using this
  obtain ⟨lo, hi⟩ := arctan_series_bounds hu0
  rw [← atanSeries_cast] at lo hi
  obtain ⟨d1, d2⟩ := degPerRad_bounds
  have hpow : (u : ℝ) ^ 21 / 21 ≤ 1 / 10 ^ 9 := by
    have := pow_le_pow_left₀ hu0 hu1 21
    have h : ((3 : ℝ) / 7) ^ 21 / 21 ≤ 1 / 10 ^ 9 := by norm_num
    linarith
  have hat0 : 0 ≤ Real.arctan u := Real.arctan_nonneg.2 hu0
  have hat1 : Real.arctan u ≤ 1 := by
    have := Real.arctan_strictMono.monotone (show (u : ℝ) ≤ 1 by linarith)
    rw [Real.arctan_one] at this
    have := Real.pi_lt_four
    linarith
  have hd : ((degPerRad : F) : ℝ) ≤ 58 := by norm_num [degPerRad]
  have hd0 : 0 ≤ ((degPerRad : F) : ℝ) := by norm_num [degPerRad]
  push_cast
  have e : Real.arctan u * 180 / Real.pi = Real.arctan u * (180 / Real.pi) := by ring
  rw [e, abs_le]
  set a := Real.arctan (u : ℝ)
  set p := ((atanSeries u : F) : ℝ)
  set d := ((degPerRad : F) : ℝ)
  set q := 180 / Real.pi
  constructor
  · nlinarith
  · nlinarith

/-- The first octant: the stand-in for the angle of `(hi, lo)`. -/
theorem octantApprox_near {hi lo : Nat} (h0 : 0 < lo) (h : lo < hi) :
    |((octantApprox hi lo : F) : ℝ) - Real.arctan ((lo : ℝ) / hi) * 180 / Real.pi| ≤ 1 / 10 ^ 7 := by
  have hhi : (0 : F) < hi := by exact_mod_cast lt_trans h0 h
  have hlo : (0 : F) < lo := by exact_mod_cast h0
  have hlt : (lo : F) < hi := by exact_mod_cast h
  unfold octantApprox
  split
  · rename_i h5
    have h5' : (5 : F) * lo ≤ 2 * hi := by exact_mod_cast h5
    have := degPerRad_mul_atanSeries (u := (lo : F) / hi) (by positivity) (by rw [div_le_div_iff₀ hhi (by norm_num)]; linarith)
    simpa using this
  · rename_i h5
    have h5' : (2 : F) * hi < 5 * lo := by exact_mod_cast not_le.1 h5
    have key := degPerRad_mul_atanSeries (u := ((hi : F) - lo) / (hi + lo))
      (div_nonneg (by linarith) (by linarith)) (by rw [div_le_div_iff₀ (by linarith) (by norm_num)]; linarith)
    have hhi' : (0 : ℝ) < hi := by exact_mod_cast lt_trans h0 h
    have hlo' : (0 : ℝ) < lo := by exact_mod_cast h0
    have hlt' : (lo : ℝ) < hi := by exact_mod_cast h
    have hsum : Real.arctan ((lo : ℝ) / hi) + Real.arctan (((hi : ℝ) - lo) / (hi + lo)) = Real.pi / 4 := by
      rw [Real.arctan_add]
      · rw [← Real.arctan_one]
        congr 1
        have : (hi : ℝ) ^ 2 + lo ^ 2 ≠ 0 := by positivity
        field_simp
        rw [div_eq_one_iff_eq]
        · ring
        · have : (hi : ℝ) * (hi + lo) - lo * (hi - lo) = hi ^ 2 + lo ^ 2 := by ring
          nlinarith
      · rw [div_mul_div_comm, div_lt_one (by positivity)]
        nlinarith
    have hc : (((((hi : F) - lo) / (hi + lo) : F)) : ℝ) = ((hi : ℝ) - lo) / (hi + lo) := by push_cast; rfl
    rw [hc] at key
    have hA : Real.arctan ((lo : ℝ) / hi) = Real.pi / 4 - Real.arctan (((hi : ℝ) - lo) / (hi + lo)) := by linarith
    have h45 : (Real.pi / 4 - Real.arctan (((hi : ℝ) - lo) / (hi + lo))) * 180 / Real.pi
        = 45 - Real.arctan (((hi : ℝ) - lo) / (hi + lo)) * 180 / Real.pi := by
      have := Real.pi_pos.ne'
      field_simp
      ring
    rw [hA, h45]
    push_cast at key ⊢
    rw [abs_sub_comm] at key
    convert key using 2
    ring

/-- The first quadrant: the stand-in for the angle of `(a, b)`. -/
theorem quadrantApprox_near {a b : Nat} (ha : 0 < a) (hb : 0 < b) (hab : a ≠ b) :
    |((quadrantApprox a b : F) : ℝ) - Real.arctan ((b : ℝ) / a) * 180 / Real.pi| ≤ 1 / 10 ^ 7 := by
  unfold quadrantApprox
  split
  · exact octantApprox_near hb ‹_›
  · have key := octantApprox_near ha (show a < b by omega)
    have hinv : Real.arctan ((b : ℝ) / a) = Real.pi / 2 - Real.arctan ((a : ℝ) / b) := by
      rw [← Real.arctan_inv_of_pos (by positivity), inv_div]
    have h90 : (Real.pi / 2 - Real.arctan ((a : ℝ) / b)) * 180 / Real.pi
        = 90 - Real.arctan ((a : ℝ) / b) * 180 / Real.pi := by
      have := Real.pi_pos.ne'
      field_simp
      ring
    rw [hinv, h90]
    push_cast
    rw [abs_sub_comm] at key
    convert key using 2
    ring

end Sys2Proof.Machine
end

