-- ==== Sys2Proof/Laws/Ops.lean ====
section
/-! SUPPORT. What each shared operation can do, said once: sequencing, buffer, cursor, counters. -/

namespace Sys2Proof.Machine

/-! ### Scaling (R113, R114) -/

theorem inSignedRange_iff (n : Int) : inSignedRange n = true ↔ -32767 ≤ n ∧ n ≤ 32767 := by simp [inSignedRange]

/-- Where the rule states a result, it is the quotient. -/
theorem scaled_of_mem {n : Int} (h : -32767 ≤ n ∧ n ≤ 32767) (quotient free : F) : scaled n quotient free = quotient :=
  if_pos ((inSignedRange_iff n).2 h)

/-- Elsewhere it is open. -/
theorem scaled_of_not_mem {n : Int} (h : ¬(-32767 ≤ n ∧ n ≤ 32767)) (quotient free : F) : scaled n quotient free = free :=
  if_neg (mt (inSignedRange_iff n).1 h)

/-! ### Sequencing -/

@[simp] theorem andThen_next (s : State) (k : State → Out) : andThen (.next s) k = k s := rfl

@[simp] theorem andThen_fault (r : Fault) (k : State → Out) : andThen (.fault r) k = .fault r := rfl

@[simp] theorem andThen_refused (r : Refusal) (k : State → Out) : andThen (.refused r) k = .refused r := rfl

theorem andThen_eq_next {o : Out} {k : State → Out} {t : State} :
    andThen o k = .next t ↔ ∃ m, o = .next m ∧ k m = .next t := by
  cases o <;> simp

theorem andThen_assoc (o : Out) (k l : State → Out) :
    andThen (andThen o k) l = andThen o fun s => andThen (k s) l := by
  cases o <;> rfl

/-! ### View and cursor -/

theorem unread_eq_view_length (s : State) : s.unread = s.view.length := by
  simp [State.unread, State.view, State.len]

theorem readByte_window (s : State) (k : Nat) : s.readByte (s.cursor + k) = s.view[k]? := by
  simp [State.readByte, State.view]

theorem advanceBy_eq_next {n : Nat} {s t : State} :
    advanceBy n s = .next t ↔ n ≤ s.unread ∧ t = { s with cursor := s.cursor + n } := by
  unfold advanceBy
  split <;> simp_all [eq_comm]

theorem advanceBy_of_le {n : Nat} {s : State} (h : n ≤ s.unread) :
    advanceBy n s = .next { s with cursor := s.cursor + n } := advanceBy_eq_next.2 ⟨h, rfl⟩

theorem advanceBy_of_lt {n : Nat} {s : State} (h : s.unread < n) : advanceBy n s = .refused .advancePastEnd := by
  simp [advanceBy, Nat.not_le.2 h]

/-- Advancing consumes the first bytes of the view and no others. -/
theorem view_advanced (s : State) (n : Nat) : ({ s with cursor := s.cursor + n } : State).view = s.view.drop n := by
  simp [State.view]

theorem unread_advanced (s : State) (n : Nat) :
    ({ s with cursor := s.cursor + n } : State).unread = s.unread - n := by
  simp [State.unread, State.len, Nat.sub_sub]

/-! ### Counters -/

theorem bumpParsed_eq_next {s t : State} :
    bumpParsed s = .next t ↔
      s.params.counts (s.framesParsed + 1) = true ∧ t = { s with framesParsed := s.framesParsed + 1 } := by
  by_cases h : s.params.counts (s.framesParsed + 1) = true
  · simp only [bumpParsed, h, if_true, Host.Outcome.next.injEq, true_and]
    exact eq_comm
  · simp [bumpParsed, h]

theorem bumpBad_eq_next {s t : State} :
    bumpBad s = .next t ↔
      s.params.counts (s.framesBad + 1) = true ∧ t = { s with framesBad := s.framesBad + 1 } := by
  by_cases h : s.params.counts (s.framesBad + 1) = true
  · simp only [bumpBad, h, if_true, Host.Outcome.next.injEq, true_and]
    exact eq_comm
  · simp [bumpBad, h]

/-! ### The buffer -/

theorem foldl_memAppend (chunk : List Byte) (s : State) :
    chunk.foldl memAppend s = { s with buf := s.buf ++ chunk } := by
  induction chunk generalizing s with
  | nil => simp
  | cons b bs ih => simp [ih, memAppend]

/-- INGEST says yes exactly when the chunk fits, and then appends all of RX (R70). -/
theorem ingest_eq_next {s t : State} :
    ingest s = .next t ↔
      s.params.fits (s.len + s.rx.length) = true ∧ t = { s with buf := s.buf ++ s.rx, rx := [] } := by
  by_cases h : s.params.fits (s.len + s.rx.length) = true
  · simp only [ingest, rxDrain, h, if_true, Host.Outcome.next.injEq, true_and, foldl_memAppend]
    exact eq_comm
  · simp [ingest, rxDrain, h]

/-- Dropping consumed bytes leaves the view as it was (R31, R75). -/
theorem view_dropFront {d : Nat} {s : State} (h : d ≤ s.cursor) : (dropFront d s).view = s.view := by
  simp [State.view, Nat.add_sub_cancel' h]

theorem len_dropFront (d : Nat) (s : State) : (dropFront d s).len = s.len - d := by simp [State.len]

theorem evicted_le_cursor (max : Nat) (s : State) : evicted max s ≤ s.cursor := Nat.min_le_right _ _

/-- What ENFORCE_CAPACITY can do (R72). -/
theorem enforceCapacity_eq_next {max : Nat} {s t : State} :
    enforceCapacity max s = .next t ↔
      (s.len ≤ max ∧ t = s) ∨
      (max < s.len ∧ s.params.counts (s.framesBad + 1) = true ∧
        t = { s with
          buf := s.buf.drop (evicted max s)
          cursor := s.cursor - evicted max s
          framesBad := s.framesBad + 1
          events := .overflow (evicted max s) :: s.events }) := by
  unfold enforceCapacity
  split
  · rename_i h
    simp only [andThen_eq_next, bumpBad_eq_next, dropFront_params, dropFront_framesBad]
    constructor
    · rintro ⟨m, ⟨hc, rfl⟩, ht⟩
      exact .inr ⟨h, hc, by simpa [recordEvent, dropFront] using ht.symm⟩
    · rintro (⟨h', -⟩ | ⟨-, hc, rfl⟩)
      · omega
      · exact ⟨_, ⟨hc, rfl⟩, by simp [recordEvent, dropFront]⟩
  · rename_i h
    constructor
    · intro ht
      exact .inl ⟨by omega, by simpa using ht.symm⟩
    · rintro (⟨-, rfl⟩ | ⟨h', -⟩)
      · rfl
      · omega

/-- What COMPACT does (R73). -/
theorem compact_cases (s : State) :
    (0 < s.cursor ∧ s.len < 2 * s.cursor ∧
      compact s = { s with buf := s.view, cursor := 0, events := .compacted :: s.events }) ∨
    ((s.cursor = 0 ∨ 2 * s.cursor ≤ s.len) ∧ compact s = s) := by
  unfold compact
  split
  · rename_i h
    exact .inl ⟨h.1, h.2, by simp [dropFront, recordEvent, State.view]⟩
  · exact .inr ⟨by omega, rfl⟩

theorem view_compact (s : State) : (compact s).view = s.view := by
  rcases compact_cases s with ⟨-, -, h⟩ | ⟨-, h⟩ <;> simp [h, State.view]

theorem unread_compact (s : State) : (compact s).unread = s.unread := by
  simp [unread_eq_view_length, view_compact]

/-! ### Skips and frames -/

/-- What a skip can do: one byte, counted or not (R91, R95). -/
theorem applySkip_eq_next {counted : Bool} {s t : State} :
    applySkip counted s = .next t ↔
      1 ≤ s.unread ∧
      (if counted then
        s.params.counts (s.framesBad + 1) = true ∧
          t = { s with
            cursor := s.cursor + 1
            framesBad := s.framesBad + 1
            events := .corruptHeader :: s.events }
      else t = { s with cursor := s.cursor + 1, events := .desync :: s.events }) := by
  unfold applySkip
  simp only [andThen_eq_next, advanceBy_eq_next]
  cases counted
  · simp [recordEvent, eq_comm]
  · simp only [if_true, andThen_eq_next, bumpBad_eq_next]
    constructor
    · rintro ⟨m, ⟨hu, rfl⟩, m', ⟨hc, rfl⟩, ht⟩
      exact ⟨hu, hc, by simpa [recordEvent] using ht.symm⟩
    · rintro ⟨hu, hc, rfl⟩
      exact ⟨_, ⟨hu, rfl⟩, _, ⟨hc, rfl⟩, by simp [recordEvent]⟩

/-- What a delivered frame can do: advance, extract, stamp, count (R133, R147). -/
theorem deliverFrame_eq_next {kind : FrameKind} {f : List Byte} {s t : State} :
    deliverFrame kind f s = .next t ↔
      kind.len ≤ s.unread ∧ ∃ m, extractInto kind f { s with cursor := s.cursor + kind.len } = .next m ∧
        m.params.counts (m.framesParsed + 1) = true ∧
        t = { stampLastSeen m with framesParsed := m.framesParsed + 1 } := by
  unfold deliverFrame
  simp only [andThen_eq_next, advanceBy_eq_next, bumpParsed_eq_next]
  constructor
  · rintro ⟨_, ⟨hu, rfl⟩, m, hm, hc, rfl⟩
    exact ⟨hu, m, hm, by simpa using hc, by simp⟩
  · rintro ⟨hu, m, hm, hc, rfl⟩
    exact ⟨_, ⟨hu, rfl⟩, m, hm, by simpa using hc, by simp⟩

/-- Extraction writes slots, NEAREST and events, and nothing else (R133, R135). -/
theorem extractInto_keeps {kind : FrameKind} {f : List Byte} {s t : State} (h : extractInto kind f s = .next t) :
    t = { s with slots := t.slots, nearest := t.nearest, events := t.events } := by
  have key : ∀ (j : TargetIdx) (x : Slot) (s : State),
      storeTarget j x s = { s with
        slots := (storeTarget j x s).slots
        nearest := (storeTarget j x s).nearest
        events := (storeTarget j x s).events } := by
    intro j x s
    cases x <;> cases j <;> simp [storeTarget, recordEvent, updateNearest, setSlot]
  cases kind with
  | multi =>
    simp only [extractInto, Host.Outcome.next.injEq] at h
    subst h
    simp only [storeTargets]
    rw [key .t3, key .t2, key .t1]
  | single =>
    simp only [extractInto] at h
    split at h
    · simp only [Host.Outcome.next.injEq] at h
      subst h
      exact key _ _ _
    · simp at h

/-- A delivered frame leaves everything but these fields as it was (R133, R135, R147). -/
theorem deliverFrame_keeps {kind : FrameKind} {f : List Byte} {s t : State} (h : deliverFrame kind f s = .next t) :
    t = { s with
      cursor := s.cursor + kind.len
      slots := t.slots
      nearest := t.nearest
      framesParsed := s.framesParsed + 1
      lastSeen := some (Config.NOW s.draws)
      draws := s.draws + 1
      events := t.events } := by
  obtain ⟨-, m, hm, -, rfl⟩ := deliverFrame_eq_next.1 h
  have := extractInto_keeps hm
  generalize m.slots = a at *
  generalize m.nearest = b at *
  generalize m.events = c at *
  subst this
  simp [stampLastSeen]

end Sys2Proof.Machine
end

