-- ==== Sys2Proof/Laws/Drain.lean ====
section
/-! SUPPORT. The drain loop: what a verdict says of the unread bytes, the bound of R96, and the loop packaged as an induction. -/

namespace Sys2Proof.Machine

/-- The six ways a classification comes out (R91, R56). -/
theorem syncClassify_cases (U : Nat) (w : List Byte) :
    (U < 14 ∧ syncClassify U w = .needMore) ∨
    (14 ≤ U ∧ bytesAt w 0 4 ≠ Config.HDR ∧ syncClassify U w = .skip1 false) ∨
    (30 ≤ U ∧ bytesAt w 0 4 = Config.HDR ∧ bytesAt w 28 2 = Config.TRL ∧ syncClassify U w = .frame .multi) ∨
    (14 ≤ U ∧ bytesAt w 0 4 = Config.HDR ∧ ¬(30 ≤ U ∧ bytesAt w 28 2 = Config.TRL) ∧ bytesAt w 12 2 = Config.TRL ∧
      syncClassify U w = .frame .single) ∨
    (30 ≤ U ∧ bytesAt w 0 4 = Config.HDR ∧ bytesAt w 28 2 ≠ Config.TRL ∧ bytesAt w 12 2 ≠ Config.TRL ∧
      syncClassify U w = .skip1 true) ∨
    (14 ≤ U ∧ U < 30 ∧ bytesAt w 0 4 = Config.HDR ∧ bytesAt w 12 2 ≠ Config.TRL ∧
      syncClassify U w = .needMore) := by
  by_cases h14 : U < 14
  · simp [syncClassify, Config.MIN_UNREAD, h14]
  have hU : 14 ≤ U := Nat.not_lt.1 h14
  by_cases hh : bytesAt w 0 4 = Config.HDR
  · by_cases h28 : 30 ≤ U ∧ bytesAt w 28 2 = Config.TRL
    · simp [syncClassify, Config.MIN_UNREAD, Config.LEN_MULTI, Config.TRL_OFF_MULTI, h14, hh, h28]
    · by_cases h12 : bytesAt w 12 2 = Config.TRL
      · have : syncClassify U w = .frame .single := by
          simp only [syncClassify, Config.MIN_UNREAD, Config.LEN_MULTI, Config.TRL_OFF_MULTI, Config.LEN_SINGLE,
            Config.TRL_OFF_SINGLE]
          simp [h14, hh, h12, hU, if_neg h28]
        exact .inr (.inr (.inr (.inl ⟨hU, hh, h28, h12, this⟩)))
      · have : syncClassify U w = if 30 ≤ U then .skip1 true else .needMore := by
          simp only [syncClassify, Config.MIN_UNREAD, Config.LEN_MULTI, Config.TRL_OFF_MULTI, Config.LEN_SINGLE,
            Config.TRL_OFF_SINGLE]
          simp [h14, hh, h12, if_neg h28]
        by_cases h30 : 30 ≤ U
        · exact .inr (.inr (.inr (.inr (.inl ⟨h30, hh, fun h => h28 ⟨h30, h⟩, h12, by simp [this, h30]⟩))))
        · exact .inr (.inr (.inr (.inr (.inr ⟨hU, by omega, hh, h12, by simp [this, h30]⟩))))
  · simp [syncClassify, Config.MIN_UNREAD, h14, hh, hU]

/-- A verdict other than NEED_MORE has the bytes it consumes before it (R91, R96). -/
theorem unread_of_verdict_skip {s : State} {c : Bool} (h : s.verdict = .skip1 c) : 14 ≤ s.unread := by
  unfold State.verdict at h
  rcases syncClassify_cases s.unread s.window with h' | h' | h' | h' | h' | h' <;> simp_all
  omega

theorem unread_of_verdict_frame {s : State} {kind : FrameKind} (h : s.verdict = .frame kind) :
    kind.len ≤ s.unread := by
  unfold State.verdict at h
  rcases syncClassify_cases s.unread s.window with h' | h' | h' | h' | h' | h' <;> simp_all
  all_goals subst h; simp [FrameKind.len, Config.LEN_MULTI, Config.LEN_SINGLE, h'.1]

theorem unread_of_verdict_frame_min {s : State} {kind : FrameKind} (h : s.verdict = .frame kind) : 14 ≤ s.unread := by
  have := unread_of_verdict_frame h
  cases kind <;> simp [FrameKind.len, Config.LEN_MULTI, Config.LEN_SINGLE] at this <;> omega

/-- NEED_MORE leaves at most 29 unread bytes (R97). -/
theorem unread_of_verdict_needMore {s : State} (h : s.verdict = .needMore) : s.unread ≤ 29 := by
  unfold State.verdict at h
  rcases syncClassify_cases s.unread s.window with h' | h' | h' | h' | h' | h' <;> simp_all <;> omega

/-- Recording an event is no part of what a verdict depends on. -/
@[simp] theorem verdict_recordEvent (e : Event) (s : State) : (recordEvent e s).verdict = s.verdict := rfl

theorem unread_applySkip {c : Bool} {s t : State} (h : applySkip c s = .next t) : t.unread + 1 = s.unread := by
  obtain ⟨hu, h⟩ := applySkip_eq_next.1 h
  cases c <;> simp at h
  · subst h; simp only [State.unread, State.len] at *; omega
  · obtain ⟨-, rfl⟩ := h; simp only [State.unread, State.len] at *; omega

theorem unread_deliverFrame {kind : FrameKind} {f : List Byte} {s t : State} (h : deliverFrame kind f s = .next t) :
    t.unread + kind.len = s.unread := by
  have hu := (deliverFrame_eq_next.1 h).1
  rw [deliverFrame_keeps h]
  simp only [State.unread, State.len] at *
  omega

/-- The loop's classifications are bounded: fuel beyond `max(0, U − 13) + 1` changes nothing (R96). -/
theorem drainLoop_fuel {n m : Nat} {s : State} (hn : s.unread - 13 < n) (hm : s.unread - 13 < m) :
    drainLoop n s = drainLoop m s := by
  induction n generalizing m s with
  | zero => omega
  | succ n ih =>
    obtain ⟨m, rfl⟩ : ∃ k, m = k + 1 := ⟨m - 1, by omega⟩
    simp only [drainLoop]
    split
    · rfl
    · rename_i c hv
      have h14 := unread_of_verdict_skip hv
      cases hs : applySkip c s with
      | next t =>
        have := unread_applySkip hs
        exact ih (by omega) (by omega)
      | fault r => rfl
      | refused r => rfl
    · rename_i kind hv
      have h14 := unread_of_verdict_frame_min hv
      cases hs : deliverFrame kind (s.frameCopy kind) s with
      | next t =>
        have := unread_deliverFrame hs
        have : 1 ≤ kind.len := by cases kind <;> decide
        exact ih (by omega) (by omega)
      | fault r => rfl
      | refused r => rfl

/-- The drain loop as the session runs it, one classification unrolled (R145 lines 4 to 13). -/
theorem drain_eq (s : State) :
    drain s =
      match s.verdict with
      | .needMore => .next (recordEvent .incomplete s)
      | .skip1 counted => andThen (applySkip counted s) drain
      | .frame kind => andThen (deliverFrame kind (s.frameCopy kind) s) drain := by
  cases hv : s.verdict with
  | needMore => simp [drain, drainLoop, hv]
  | skip1 c =>
    simp only [drain, drainLoop, hv]
    have h14 := unread_of_verdict_skip hv
    cases hs : applySkip c s with
    | next t =>
      have := unread_applySkip hs
      exact drainLoop_fuel (n := s.unread) (s := t) (by omega) (by omega)
    | fault r => rfl
    | refused r => rfl
  | frame kind =>
    simp only [drain, drainLoop, hv]
    have h14 := unread_of_verdict_frame_min hv
    cases hs : deliverFrame kind (s.frameCopy kind) s with
    | next t =>
      have := unread_deliverFrame hs
      have : 1 ≤ kind.len := by cases kind <;> decide
      exact drainLoop_fuel (n := s.unread) (s := t) (by omega) (by omega)
    | fault r => rfl
    | refused r => rfl

/-- The induction over a drain loop: a property that a final NEED_MORE gives, and that each skip and each frame carries back
from the state after it, holds of the state the loop starts in. -/
theorem drain_induction {P : State → Prop}
    (wait : ∀ s, s.verdict = .needMore → P s)
    (skip : ∀ s c t, s.verdict = .skip1 c → applySkip c s = .next t → P t → P s)
    (frame : ∀ s kind t, s.verdict = .frame kind → deliverFrame kind (s.frameCopy kind) s = .next t → P t → P s)
    {s t : State} (h : drain s = .next t) : P s := by
  generalize hk : s.unread = k
  induction k using Nat.strong_induction_on generalizing s with
  | _ k ih =>
    rw [drain_eq] at h
    split at h
    · exact wait s ‹_›
    · rename_i c hv
      obtain ⟨m, hm, ht⟩ := andThen_eq_next.1 h
      have := unread_applySkip hm
      exact skip s c m hv hm (ih m.unread (by omega) ht rfl)
    · rename_i kind hv
      obtain ⟨m, hm, ht⟩ := andThen_eq_next.1 h
      have := unread_deliverFrame hm
      have := unread_of_verdict_frame_min hv
      have : 1 ≤ kind.len := by cases kind <;> decide
      exact frame s kind m hv hm (ih m.unread (by omega) ht rfl)

/-- A relation between the state a drain loop starts in and the one it ends in: given for the final NEED_MORE, and carried
back over each skip and each frame. -/
theorem drain_relation {R : State → State → Prop}
    (wait : ∀ s, s.verdict = .needMore → R s (recordEvent .incomplete s))
    (skip : ∀ s c m t, s.verdict = .skip1 c → applySkip c s = .next m → R m t → R s t)
    (frame : ∀ s kind m t, s.verdict = .frame kind → deliverFrame kind (s.frameCopy kind) s = .next m → R m t → R s t)
    {s t : State} (h : drain s = .next t) : R s t := by
  have : drain s = .next t → R s t := by
    refine drain_induction (P := fun s => drain s = .next t → R s t) ?_ ?_ ?_ h
    · intro s hv hs
      rw [drain_eq, hv] at hs
      cases hs
      exact wait s hv
    · intro s c m hv hm ih hs
      rw [drain_eq, hv] at hs
      exact skip s c m t hv hm (ih (by simpa [hm] using hs))
    · intro s kind m hv hm ih hs
      rw [drain_eq, hv] at hs
      exact frame s kind m t hv hm (ih (by simpa [hm] using hs))
  exact this h

/-- A drain loop that ends, ends waiting (R96, R97). -/
theorem drain_ends_waiting {s t : State} (h : drain s = .next t) : t.verdict = .needMore :=
  drain_relation (R := fun _ t => t.verdict = .needMore) (fun _ hv => hv) (fun _ _ _ _ _ _ h => h)
    (fun _ _ _ _ _ _ h => h) h

/-- What no drain loop writes (R147). -/
theorem drain_keeps {s t : State} (h : drain s = .next t) :
    t.buf = s.buf ∧ t.bytesPending = s.bytesPending ∧ t.loopDurationMs = s.loopDurationMs ∧ t.params = s.params ∧
      t.rx = s.rx ∧ t.installOffsetDeg = s.installOffsetDeg ∧ t.result = s.result ∧ t.agenda = s.agenda := by
  refine drain_relation (R := fun s t => t.buf = s.buf ∧ t.bytesPending = s.bytesPending ∧
    t.loopDurationMs = s.loopDurationMs ∧ t.params = s.params ∧ t.rx = s.rx ∧
    t.installOffsetDeg = s.installOffsetDeg ∧ t.result = s.result ∧ t.agenda = s.agenda) ?_ ?_ ?_ h
  · intro s _
    simp
  · intro s c m t _ hm ih
    obtain ⟨-, hm⟩ := applySkip_eq_next.1 hm
    cases c <;> simp at hm
    · subst hm; exact ih
    · obtain ⟨-, rfl⟩ := hm; exact ih
  · intro s kind m t _ hm ih
    rw [deliverFrame_keeps hm] at ih
    exact ih

/-- The cursor stays within the buffer over a drain loop (R77). -/
theorem drain_cursor_le {s t : State} (h : drain s = .next t) (hs : s.cursor ≤ s.len) : t.cursor ≤ t.len := by
  refine drain_relation (R := fun s t => s.cursor ≤ s.len → t.cursor ≤ t.len) ?_ ?_ ?_ h hs
  · intro s _ hs
    exact hs
  · intro s c m t _ hm ih hs
    have hu := (applySkip_eq_next.1 hm).1
    have hk := unread_applySkip hm
    obtain ⟨-, hm⟩ := applySkip_eq_next.1 hm
    apply ih
    simp only [State.unread, State.len] at *
    cases c <;> simp at hm
    · subst hm; simp only; omega
    · obtain ⟨-, rfl⟩ := hm; simp only; omega
  · intro s kind m t _ hm ih hs
    have hu := (deliverFrame_eq_next.1 hm).1
    apply ih
    rw [deliverFrame_keeps hm]
    simp only [State.unread, State.len] at *
    omega

/-- What a cycle that completes went through (R145). -/
theorem decodeCycle_eq_next {s t : State} :
    decodeCycle s = .next t ↔
      ∃ a b c, ingest s = .next a ∧ enforceCapacity Config.MAX_LEN a = .next b ∧ drain (clearTargets b) = .next c ∧
        t = sampleDuration (samplePending (compact c)) := by
  unfold decodeCycle
  simp only [andThen_eq_next]
  constructor
  · rintro ⟨a, ha, b, hb, c, hc, ht⟩
    exact ⟨a, b, c, ha, hb, hc, by simpa using ht.symm⟩
  · rintro ⟨a, b, c, ha, hb, hc, rfl⟩
    exact ⟨a, ha, b, hb, c, hc, rfl⟩

end Sys2Proof.Machine
end

