-- ==== Sys2Proof/Laws/Decode.lean ====
section
/-! SUPPORT. Byte order, frame copies, and what a decoded row says of the unread bytes. -/

namespace Sys2Proof

/-! ### Byte order (R34) -/

@[simp] theorem leBytes_length (k n : Nat) : (leBytes k n).length = k := by
  induction k generalizing n with
  | zero => rfl
  | succ k ih => simp [leBytes, ih]

theorem leValue_leBytes (k n : Nat) : leValue (leBytes k n) = n % 256 ^ k := by
  induction k generalizing n with
  | zero => simp [leBytes, leValue, Nat.mod_one]
  | succ k ih =>
    simp only [leBytes, leValue, ih, BitVec.toNat_ofNat]
    have h : 256 ^ (k + 1) = 256 * 256 ^ k := by ring
    rw [h, Nat.mod_mul]

theorem leBytes_leValue (bs : List Byte) : leBytes bs.length (leValue bs) = bs := by
  induction bs with
  | nil => rfl
  | cons b bs ih =>
    have hb := b.isLt
    have h1 : (b.toNat + 256 * leValue bs) / 256 = leValue bs := by omega
    simp only [List.length_cons, leBytes, leValue, h1, ih, List.cons.injEq, and_true]
    apply BitVec.eq_of_toNat_eq
    simp only [BitVec.toNat_ofNat]
    omega

theorem leValue_lt (bs : List Byte) : leValue bs < 256 ^ bs.length := by
  induction bs with
  | nil => simp [leValue]
  | cons b bs ih =>
    have hb := b.isLt
    simp only [leValue, List.length_cons, Nat.pow_succ]
    omega

@[simp] theorem wordBytes_length (x : U16) : (wordBytes x).length = 2 := leBytes_length 2 _

theorem wordBytes_eq (x : U16) : wordBytes x = [BitVec.ofNat 8 x.toNat, BitVec.ofNat 8 (x.toNat / 256)] := rfl

/-- The word a field's two bytes stand for. -/
@[simp] theorem ofNat_leValue_wordBytes (x : U16) : BitVec.ofNat 16 (leValue (wordBytes x)) = x := by
  apply BitVec.eq_of_toNat_eq
  have := x.isLt
  simp only [wordBytes, leValue_leBytes, BitVec.toNat_ofNat]
  omega

/-- The bytes of the word that two bytes stand for. -/
theorem wordBytes_leValue (bs : List Byte) (h : bs.length = 2) : wordBytes (BitVec.ofNat 16 (leValue bs)) = bs := by
  have hlt := leValue_lt bs
  rw [h] at hlt
  have : (leValue bs) % 2 ^ 16 = leValue bs := Nat.mod_eq_of_lt (by omega)
  simp only [wordBytes, BitVec.toNat_ofNat, this]
  rw [← h]
  exact leBytes_leValue bs

/-- A word read where its bytes stand. -/
theorem wordAt_append (pre : List Byte) (x : U16) (post : List Byte) :
    wordAt (pre ++ wordBytes x ++ post) pre.length = x := by
  simp [wordAt]

/-! ### Frames as bytes (R51, R52) -/

@[simp] theorem Block.bytes_length (b : Block) : b.bytes.length = 8 := by simp [Block.bytes]

@[simp] theorem hdr_length : Config.HDR.length = 4 := rfl

@[simp] theorem trl_length : Config.TRL.length = 2 := rfl

theorem encode_multi_length (b1 b2 b3 : Block) : (encode (.multi b1 b2 b3)).length = 30 := by simp [encode]

theorem encode_single_length (b : Block) : (encode (.single b)).length = 14 := by simp [encode]

/-- A block read where its bytes stand. -/
theorem blockAt_append (pre : List Byte) (b : Block) (post : List Byte) :
    blockAt (pre ++ b.bytes ++ post) pre.length = b := by
  have hx : wordAt (pre ++ b.bytes ++ post) pre.length = b.x := by
    have := wordAt_append pre b.x (wordBytes b.y ++ wordBytes b.v ++ [b.pad0, b.pad1] ++ post)
    simpa [Block.bytes, List.append_assoc] using this
  have hy : wordAt (pre ++ b.bytes ++ post) (pre.length + 2) = b.y := by
    have := wordAt_append (pre ++ wordBytes b.x) b.y (wordBytes b.v ++ [b.pad0, b.pad1] ++ post)
    simpa [Block.bytes, List.append_assoc] using this
  have hv : wordAt (pre ++ b.bytes ++ post) (pre.length + 4) = b.v := by
    have := wordAt_append (pre ++ wordBytes b.x ++ wordBytes b.y) b.v ([b.pad0, b.pad1] ++ post)
    simpa [Block.bytes, List.append_assoc, Nat.add_assoc] using this
  have h0 : (pre ++ b.bytes ++ post).getD (pre.length + 6) 0 = b.pad0 := by
    simp [Block.bytes, List.getD_eq_getElem?_getD, wordBytes_eq]
  have h1 : (pre ++ b.bytes ++ post).getD (pre.length + 7) 0 = b.pad1 := by
    simp [Block.bytes, List.getD_eq_getElem?_getD, wordBytes_eq]
  cases b
  simp only [blockAt, hx, hy, hv, h0, h1]

/-! ### The rows of the byte stream (R56, R57) -/

theorem and_ff (b : Byte) : b &&& 255#8 = b := BitVec.and_allOnes (x := b)

/-- Row MULTI applies where its fixed bytes stand. -/
theorem multiRow_hits (w : List Byte) :
    multiRow.hits w = true ↔
      30 ≤ w.length ∧ w.take 4 = [0xAA, 0xFF, 0x03, 0x00] ∧ (w.drop 28).take 2 = [0x55, 0xCC] := by
  by_cases h : 30 ≤ w.length
  · obtain ⟨a, r, rfl, ha⟩ : ∃ a r, w = a ++ r ∧ a.length = 30 := ⟨w.take 30, w.drop 30, by simp, by simp [h]⟩
    match a, ha with
    | [b0, b1, b2, b3, b4, b5, b6, b7, b8, b9, b10, b11, b12, b13, b14, b15, b16, b17, b18, b19, b20, b21, b22, b23, b24,
        b25, b26, b27, b28, b29], _ =>
      simp [FrameRow.hits, multiRow, List.replicate, -List.reduceReplicate, and_ff, and_assoc]
  · simp [FrameRow.hits, multiRow, h]

/-- Row SINGLE applies where its fixed bytes stand. -/
theorem singleRow_hits (w : List Byte) :
    singleRow.hits w = true ↔
      14 ≤ w.length ∧ w.take 4 = [0xAA, 0xFF, 0x03, 0x00] ∧ (w.drop 12).take 2 = [0x55, 0xCC] := by
  by_cases h : 14 ≤ w.length
  · obtain ⟨a, r, rfl, ha⟩ : ∃ a r, w = a ++ r ∧ a.length = 14 := ⟨w.take 14, w.drop 14, by simp, by simp [h]⟩
    match a, ha with
    | [b0, b1, b2, b3, b4, b5, b6, b7, b8, b9, b10, b11, b12, b13], _ =>
      simp [FrameRow.hits, singleRow, List.replicate, -List.reduceReplicate, and_ff, and_assoc]
  · simp [FrameRow.hits, singleRow, h]

/-- The header test. -/
theorem headerAt0_iff (w : List Byte) : headerAt0 w = true ↔ w.take 4 = [0xAA, 0xFF, 0x03, 0x00] := by simp [headerAt0]

end Sys2Proof

namespace Sys2Proof.Machine

/-- What the synchronizer compares are bytes of the view (R90). -/
theorem bytesAt_window {s : State} {k n : Nat} (h : k + n ≤ 30) :
    bytesAt s.window k n = (s.view.drop k).take n := by
  simp only [bytesAt, State.window, Config.LEN_MULTI, List.drop_take, List.take_take]
  rw [Nat.min_eq_left (by omega)]

/-- READ_U16_LE is the little-endian word at the offset (R34, R110). -/
theorem readU16LE_eq_wordAt {f : List Byte} {o : Nat} (h : o + 2 ≤ f.length) : readU16LE f o = wordAt f o := by
  have hd : (f.drop o).take 2 = [f[o], f[o + 1]] := by
    rw [List.drop_eq_getElem_cons (by omega), List.drop_eq_getElem_cons (by omega)]
    rfl
  apply BitVec.eq_of_toNat_eq
  have h0 := (f[o]).isLt
  have h1 := (f[o + 1]).isLt
  simp only [readU16LE, wordAt, hd, leValue, List.getD_eq_getElem?_getD, List.getElem?_eq_getElem (show o < f.length by omega),
    List.getElem?_eq_getElem (show o + 1 < f.length by omega), Option.getD_some, BitVec.toNat_add, BitVec.toNat_mul,
    BitVec.toNat_setWidth, BitVec.toNat_ofNat]
  omega

/-- DECODE_BLOCK on bytes that hold a block reads the block's three words (R54, R125). -/
theorem decodeBlock_eq_targetOf {onRaw : Bool} {f : List Byte} {o : Nat} (h : o + 8 ≤ f.length) :
    decodeBlock onRaw f o = targetOf onRaw (blockAt f o).x (blockAt f o).y (blockAt f o).v := by
  simp only [decodeBlock, blockAt]
  rw [readU16LE_eq_wordAt (by omega), readU16LE_eq_wordAt (by omega), readU16LE_eq_wordAt (by omega)]

/-- The blocks of a multi frame's bytes. -/
theorem blockAt_encode_multi (b1 b2 b3 : Block) :
    blockAt (encode (.multi b1 b2 b3)) 4 = b1 ∧ blockAt (encode (.multi b1 b2 b3)) 12 = b2 ∧
      blockAt (encode (.multi b1 b2 b3)) 20 = b3 := by
  refine ⟨?_, ?_, ?_⟩
  · have := blockAt_append Config.HDR b1 (b2.bytes ++ b3.bytes ++ Config.TRL)
    simpa [encode, List.append_assoc] using this
  · have := blockAt_append (Config.HDR ++ b1.bytes) b2 (b3.bytes ++ Config.TRL)
    simpa [encode, List.append_assoc] using this
  · have := blockAt_append (Config.HDR ++ b1.bytes ++ b2.bytes) b3 Config.TRL
    simpa [encode, List.append_assoc] using this

theorem blockAt_encode_single (b : Block) : blockAt (encode (.single b)) 4 = b := by
  simpa [encode] using blockAt_append Config.HDR b Config.TRL

/-- EXTRACT_MULTI on the bytes of a multi frame (R129). -/
theorem extractMulti_encode (onRaw : Bool) (b1 b2 b3 : Block) :
    extractMulti onRaw (encode (.multi b1 b2 b3)) =
      { s1 := targetOf onRaw b1.x b1.y b1.v
        s2 := targetOf onRaw b2.x b2.y b2.v
        s3 := targetOf onRaw b3.x b3.y b3.v } := by
  obtain ⟨h1, h2, h3⟩ := blockAt_encode_multi b1 b2 b3
  have hl := encode_multi_length b1 b2 b3
  simp only [extractMulti, TargetIdx.blkOff]
  rw [decodeBlock_eq_targetOf (by omega), decodeBlock_eq_targetOf (by omega), decodeBlock_eq_targetOf (by omega), h1, h2,
    h3]

/-- DECODE_BLOCK on the bytes of a single frame (R130). -/
theorem decodeBlock_encode_single (onRaw : Bool) (b : Block) :
    decodeBlock onRaw (encode (.single b)) 4 = targetOf onRaw b.x b.y b.v := by
  rw [decodeBlock_eq_targetOf (by simp [encode_single_length]), blockAt_encode_single]

end Sys2Proof.Machine
end

