-- ==== Sys2Proof/Laws/Memory.lean ====
section
/-! SUPPORT. BUF keeps its form under every memory operation, and the physical cells keep theirs (R11, R45). -/

namespace Sys2Proof.Machine

/-! ### The logical buffer space -/

theorem risingFrom_cellsFrom (a : Nat) (m : Memory) : risingFrom a (Memory.cellsFrom a m) = true := by
  induction m generalizing a with
  | nil => rfl
  | cons b m ih => simp [Memory.cellsFrom, risingFrom, ih]

/-- The cells of BUF always rise from offset 0: the form comes to the bound of the store. -/
theorem memory_wf_iff (p : Params) (m : Memory) : Memory.wf p m = true ↔ p.fits m.length = true := by
  simp [Memory.wf, Memory.cells, risingFrom_cellsFrom]

/-- A shorter buffer fits where a longer one does. -/
theorem fits_of_le {p : Params} {m n : Nat} (h : m ≤ n) (hn : p.fits n = true) : p.fits m = true := by
  unfold Params.fits at *
  split <;> simp_all
  omega

theorem memory_wf_reset : Memory.wf State.reset.params State.reset.buf = true := by decide

theorem memory_wf_drop (p : Params) (m : Memory) (d : Nat) (h : Memory.wf p m = true) : Memory.wf p (m.drop d) = true := by
  rw [memory_wf_iff] at *
  exact fits_of_le (by simp) h

theorem memory_wf_dropFront {d : Nat} {s : State} (h : Memory.wf s.params s.buf = true) :
    Memory.wf (dropFront d s).params (dropFront d s).buf = true := by
  simpa using memory_wf_drop _ _ d h

theorem memory_wf_ingest {s t : State} (h : ingest s = .next t) : Memory.wf t.params t.buf = true := by
  obtain ⟨hf, rfl⟩ := ingest_eq_next.1 h
  simpa [memory_wf_iff, State.len] using hf

theorem memory_wf_enforceCapacity {max : Nat} {s t : State} (h : enforceCapacity max s = .next t)
    (hs : Memory.wf s.params s.buf = true) : Memory.wf t.params t.buf = true := by
  rcases enforceCapacity_eq_next.1 h with ⟨-, rfl⟩ | ⟨-, -, rfl⟩
  · exact hs
  · exact memory_wf_drop _ _ _ hs

theorem memory_wf_compact {s : State} (hs : Memory.wf s.params s.buf = true) :
    Memory.wf (compact s).params (compact s).buf = true := by
  rcases compact_cases s with ⟨-, -, h⟩ | ⟨-, h⟩
  · rw [h]
    exact memory_wf_drop _ _ _ hs
  · rw [h]
    exact hs

theorem memory_wf_drain {s t : State} (h : drain s = .next t) (hs : Memory.wf s.params s.buf = true) :
    Memory.wf t.params t.buf = true := by
  obtain ⟨hb, -, -, hp, -⟩ := drain_keeps h
  rw [hb, hp]
  exact hs

theorem memory_wf_decodeCycle {s t : State} (h : decodeCycle s = .next t) : Memory.wf t.params t.buf = true := by
  obtain ⟨a, b, c, ha, hb, hc, rfl⟩ := decodeCycle_eq_next.1 h
  have h1 := memory_wf_ingest ha
  have h2 := memory_wf_enforceCapacity hb h1
  have h3 := memory_wf_drain hc (by simpa using h2)
  simpa using memory_wf_compact h3

/-! ### The physical cells -/

theorem risingFrom_of_le {a b : Nat} {cs : List Host.Cell} (h : a ≤ b) (hb : risingFrom b cs = true) :
    risingFrom a cs = true := by
  cases cs with
  | nil => rfl
  | cons c cs =>
    simp only [risingFrom, Bool.and_eq_true, decide_eq_true_eq] at *
    exact ⟨by omega, hb.2⟩

/-- Below the first cell nothing is listed. -/
theorem readCell_of_lt {a b : Nat} {cs : List Host.Cell} (hb : risingFrom b cs = true) (h : a < b) :
    readCell cs a = blankByte := by
  induction cs generalizing b with
  | nil => rfl
  | cons c cs ih =>
    simp only [risingFrom, Bool.and_eq_true, decide_eq_true_eq] at hb
    rw [readCell, if_neg (by omega)]
    exact ih hb.2 (by omega)

theorem readCell_consCell (a k : Nat) (b : Byte) (cs : List Host.Cell) (h : risingFrom (a + 1) cs = true) :
    readCell (consCell a b cs) k = if k = a then b else readCell cs k := by
  unfold consCell
  split
  · split
    · rename_i hb hk
      subst hb hk
      exact readCell_of_lt h (by omega)
    · rfl
  · rw [readCell]
    by_cases hk : k = a
    · rw [if_pos hk.symm, if_pos hk]
    · rw [if_neg (Ne.symm hk), if_neg hk]

/-- Read after write: the cell written reads as the byte, every other as before (R45). -/
theorem readCell_writeCell (cs : List Host.Cell) (a k : Nat) (b : Byte) (n : Nat) (h : risingFrom n cs = true) :
    readCell (writeCell cs a b) k = if k = a then b else readCell cs k := by
  induction cs generalizing n with
  | nil => exact readCell_consCell a k b [] rfl
  | cons c cs ih =>
    have hc := h
    simp only [risingFrom, Bool.and_eq_true, decide_eq_true_eq] at hc
    rw [writeCell]
    split
    · rename_i hlt
      apply readCell_consCell
      simp only [risingFrom, Bool.and_eq_true, decide_eq_true_eq]
      exact ⟨by omega, hc.2⟩
    · split
      · rename_i heq
        subst heq
        rw [readCell_consCell _ _ _ _ hc.2, readCell]
        by_cases hk : k = c.1
        · rw [if_pos hk, if_pos hk]
        · rw [if_neg hk, if_neg hk, if_neg (Ne.symm hk)]
      · rename_i hne
        rw [readCell, readCell, ih _ hc.2]
        by_cases hk : c.1 = k
        · rw [if_pos hk, if_pos hk, if_neg (by omega)]
        · rw [if_neg hk, if_neg hk]

theorem risingFrom_consCell {n a : Nat} {b : Byte} {cs : List Host.Cell} (hn : n ≤ a) (h : risingFrom (a + 1) cs = true) :
    risingFrom n (consCell a b cs) = true := by
  unfold consCell
  split
  · exact risingFrom_of_le (by omega) h
  · simp [risingFrom, hn, h]

theorem risingFrom_writeCell {n a : Nat} {b : Byte} {cs : List Host.Cell} (hn : n ≤ a) (h : risingFrom n cs = true) :
    risingFrom n (writeCell cs a b) = true := by
  induction cs generalizing n with
  | nil => exact risingFrom_consCell hn rfl
  | cons c cs ih =>
    have hc := h
    simp only [risingFrom, Bool.and_eq_true, decide_eq_true_eq] at hc
    rw [writeCell]
    split
    · apply risingFrom_consCell hn
      simp only [risingFrom, Bool.and_eq_true, decide_eq_true_eq]
      exact ⟨by omega, hc.2⟩
    · split
      · rename_i heq
        subst heq
        exact risingFrom_consCell hn hc.2
      · simp only [risingFrom, Bool.and_eq_true, decide_eq_true_eq]
        exact ⟨hc.1, ih (by omega) hc.2⟩

/-- A write keeps the canonical form of the cells. -/
theorem cellsWf_writeCell {cs : List Host.Cell} (h : cellsWf cs = true) (a : Nat) (b : Byte) :
    cellsWf (writeCell cs a b) = true := by
  have hcons : ∀ (cs : List Host.Cell), (cs.all fun c => c.2 != blankByte) = true →
      ((consCell a b cs).all fun c => c.2 != blankByte) = true := by
    intro cs hcs
    unfold consCell
    split
    · exact hcs
    · rename_i hb
      rw [List.all_cons, hcs, Bool.and_true]
      exact bne_iff_ne.2 hb
  have hall : ∀ (cs : List Host.Cell), (cs.all fun c => c.2 != blankByte) = true →
      ((writeCell cs a b).all fun c => c.2 != blankByte) = true := by
    intro cs
    induction cs with
    | nil => exact hcons []
    | cons c cs ih =>
      intro hcs
      have h2 := hcs
      rw [List.all_cons, Bool.and_eq_true] at h2
      rw [writeCell]
      split
      · exact hcons _ hcs
      · split
        · exact hcons _ h2.2
        · rw [List.all_cons, h2.1, Bool.true_and]
          exact ih h2.2
  simp only [cellsWf, Bool.and_eq_true] at *
  exact ⟨risingFrom_writeCell (Nat.zero_le a) h.1, hall cs h.2⟩

end Sys2Proof.Machine
end

