-- ==== Sys2Proof/Laws/PerInstr.lean ====
section
/-! SUPPORT. One lemma per instruction: the family `OpCodeByte`. -/

namespace Sys2Proof.Laws.OpCodeByte

/-- An operation word begins with its op code and is no longer than the longest; a row of the byte stream consumes 1, 14 or 30
bytes (R8, R50, R56). -/
def Statement (i : Instr) : Prop :=
  i.wellFormed = true →
    (∀ c, i.opCode = some c → (encode i).head? = some (BitVec.ofNat 8 c) ∧ (encode i).length ≤ maxWordBytes) ∧
      (i.opCode = none → (encode i).length = 1 ∨ (encode i).length = 14 ∨ (encode i).length = 30)

theorem multi (b1 b2 b3 : Block) : Statement (.multi b1 b2 b3) := by simp [Statement, Instr.opCode, encode]

theorem single (b : Block) : Statement (.single b) := by simp [Statement, Instr.opCode, encode]

theorem corruptByte : Statement .corruptByte := by simp [Statement, Instr.opCode, encode]

theorem garbageByte (b : Byte) : Statement (.garbageByte b) := by simp [Statement, Instr.opCode, encode]

theorem reset : Statement .reset := by simp [Statement, Instr.opCode, encode, maxWordBytes]

theorem ingest : Statement .ingest := by simp [Statement, Instr.opCode, encode, maxWordBytes]

theorem pendingUnread : Statement .pendingUnread := by simp [Statement, Instr.opCode, encode, maxWordBytes]

theorem enforceCapacity : Statement .enforceCapacity := by simp [Statement, Instr.opCode, encode, maxWordBytes]

theorem compact : Statement .compact := by simp [Statement, Instr.opCode, encode, maxWordBytes]

theorem advance (n : Stride) : Statement (.advance n) := by simp [Statement, Instr.opCode, encode, maxWordBytes]

theorem syncClassify : Statement .syncClassify := by simp [Statement, Instr.opCode, encode, maxWordBytes]

theorem readU16Le (buf : List Byte) (offset : Nat) : Statement (.readU16Le buf offset) := by
  intro h
  simp only [Instr.wellFormed, isFrameLen, Bool.and_eq_true, Bool.or_eq_true, beq_iff_eq, Config.LEN_MULTI, Config.LEN_SINGLE] at h
  simp [Instr.opCode, encode, maxWordBytes]
  omega

theorem decodeSigned (raw : U16) : Statement (.decodeSigned raw) := by
  simp [Statement, Instr.opCode, encode, maxWordBytes]

theorem toMetres (mm : Int) : Statement (.toMetres mm) := by
  simp [Statement, Instr.opCode, encode, maxWordBytes, int32Bytes]

theorem toMps (cm : Int) : Statement (.toMps cm) := by
  simp [Statement, Instr.opCode, encode, maxWordBytes, int32Bytes]

theorem decodeBlock (f : List Byte) (j : TargetIdx) : Statement (.decodeBlock f j) := by
  intro h
  simp only [Instr.wellFormed, isFrameLen, Bool.and_eq_true, Bool.or_eq_true, beq_iff_eq, Config.LEN_MULTI, Config.LEN_SINGLE] at h
  simp [Instr.opCode, encode, maxWordBytes]
  omega

theorem extractMulti (f : List Byte) : Statement (.extractMulti f) := by
  intro h
  simp only [Instr.wellFormed, beq_iff_eq, Config.LEN_MULTI] at h
  simp [Instr.opCode, encode, maxWordBytes, h]

theorem extractSingle (f : List Byte) : Statement (.extractSingle f) := by
  intro h
  simp only [Instr.wellFormed, beq_iff_eq, Config.LEN_SINGLE] at h
  simp [Instr.opCode, encode, maxWordBytes, h]

theorem decodeCycle : Statement .decodeCycle := by simp [Statement, Instr.opCode, encode, maxWordBytes]

end Sys2Proof.Laws.OpCodeByte
end

