-- ==== Sys2Proof/Laws/Rows.lean ====
section
/-! SUPPORT. The rows a drain loop meets, one unrolled at a time; rows and byte sequences that differ in ignored bytes. -/

namespace Sys2Proof.Machine

/-- A row consumes a byte at least, and no more than are unread (R96). -/
theorem encode_length_of_decodeFrame {w : List Byte} {i : Instr} (h : decodeFrame w = .ok i) :
    1 ≤ (encode i).length ∧ (encode i).length ≤ w.length := by
  unfold decodeFrame at h
  split at h
  · rename_i hm
    cases h
    simpa [encode_multi_length] using ((multiRow_hits w).1 hm).1
  split at h
  · rename_i hs
    cases h
    simpa [encode_single_length] using ((singleRow_hits w).1 hs).1
  split at h
  · split at h <;> cases h
    simp only [encode, List.length_singleton]
    omega
  · split at h <;> cases h
    simp only [encode, List.length_singleton]
    omega

/-- Fuel for every byte is enough. -/
theorem rowsWithin_fuel {n m : Nat} {w : List Byte} (hn : w.length ≤ n) (hm : w.length ≤ m) :
    rowsWithin n w = rowsWithin m w := by
  induction n generalizing m w with
  | zero =>
    obtain rfl := List.length_eq_zero_iff.1 (Nat.le_zero.1 hn)
    cases m <;> rfl
  | succ n ih =>
    cases m with
    | zero =>
      obtain rfl := List.length_eq_zero_iff.1 (Nat.le_zero.1 hm)
      rfl
    | succ m =>
      simp only [rowsWithin]
      split
      · rename_i i hi
        have := encode_length_of_decodeFrame hi
        rw [ih (m := m) (by simp; omega) (by simp; omega)]
      · rfl

/-- The rows, one unrolled. -/
theorem rowsOf_eq (w : List Byte) :
    rowsOf w =
      match decodeFrame w with
      | .ok i => i :: rowsOf (w.drop (encode i).length)
      | .error _ => [] := by
  unfold rowsOf
  rw [rowsWithin_fuel (Nat.le_refl _) (Nat.le_succ _)]
  cases hd : decodeFrame w with
  | error e => simp [rowsWithin, hd]
  | ok i =>
    have := encode_length_of_decodeFrame hd
    simp only [rowsWithin, hd]
    rw [rowsWithin_fuel (m := (w.drop (encode i).length).length) (by simp) (Nat.le_refl _)]

/-- Rows that differ in ignored bytes consume the same number of bytes. -/
theorem SameRead.length_eq {i j : Instr} (h : SameRead i j) : (encode i).length = (encode j).length := by
  cases h <;> simp [encode_single_length, encode_multi_length]

/-- Blocks of the same words give the same target (R59). -/
theorem SameWords.targetOf_eq {b c : Block} (h : SameWords b c) (onRaw : Bool) :
    targetOf onRaw b.x b.y b.v = targetOf onRaw c.x c.y c.v := by
  rw [h.1, h.2.1, h.2.2]

/-- DECODE_BLOCK reads six bytes of its block and no others (R125, R59). -/
theorem AgreeOff.decodeBlock_eq {ignored : List Nat} {f g : List Byte} (h : AgreeOff ignored f g) (onRaw : Bool) {o : Nat}
    (ho : ∀ k < 6, o + k ∉ ignored) : decodeBlock onRaw f o = decodeBlock onRaw g o := by
  have read (k : Nat) (hk : k < 6) : f.getD (o + k) 0 = g.getD (o + k) 0 := by
    rw [List.getD_eq_getElem?_getD, List.getD_eq_getElem?_getD, h.2 _ (ho k hk)]
  simp only [decodeBlock, readU16LE, Nat.add_assoc, Nat.reduceAdd]
  rw [read 1 (by omega), read 2 (by omega), read 3 (by omega), read 4 (by omega), read 5 (by omega)]
  rw [show f.getD o 0 = g.getD o 0 from read 0 (by omega)]

end Sys2Proof.Machine
end

