-- ==== Sys2Proof/Tests/Slice0.lean ====
section
/-! SUPPORT. Smoke tests of well-formedness, words written out from the spec's encodings, one-step tests with results from
95_test_vectors.md, and a witness for every obligation that has hypotheses. -/

namespace Sys2Proof.Tests

-- One kernel evaluation at a time: many side by side each take a thread's stack.
set_option Elab.async false

open Sys2Proof Sys2Proof.Machine

/-! ### Helpers -/

/-- The outcome is a next state with this property. -/
def next (o : Out) (p : State → Bool) : Bool :=
  match o with
  | .next s => p s
  | .fault _ => false
  | .refused _ => false

/-- The outcome is this refusal. -/
def stops (o : Out) (r : Refusal) : Bool :=
  match o with
  | .next _ => false
  | .fault _ => false
  | .refused r' => r' == r

/-- The reset state with these bytes in BUF and CURSOR at `cursor`. -/
def at_ (buf : List Byte) (cursor : Nat) : State := { State.reset with buf := buf, cursor := cursor }

/-- A buffer of `n` bytes 0x22, of which `cursor` are consumed. -/
def filled (n cursor : Nat) : State := at_ (List.replicate n 0x22) cursor

/-- The state as a test of the vectors of 2.2 reads it. -/
def buf3 (s : State) : Nat × Nat × Nat := (s.len, s.cursor, s.framesBad)

/-- One millimetre under the encoding of R111. -/
def blk (x y v : Int) : Block := { x := sm x, y := sm y, v := sm v, pad0 := 0, pad1 := 0 }

/-- E4's frame: `SINGLE 1234, -500, 200`, its ignored bytes not zero. -/
def e4 : List Byte := [0xAA, 0xFF, 0x03, 0x00, 0xD2, 0x84, 0xF4, 0x01, 0xC8, 0x80, 0x11, 0x22, 0x55, 0xCC]

/-- P3's frame: `MULTI (300,400,10) (0,2000,0) NONE`. -/
def p3 : List Byte :=
  [0xAA, 0xFF, 0x03, 0x00, 0x2C, 0x81, 0x90, 0x81, 0x0A, 0x80, 0x00, 0x00, 0x00, 0x00, 0xD0, 0x87] ++
    [0x00, 0x00, 0x00, 0x00, 0x00, 0x00, 0x00, 0x00, 0x00, 0x00, 0x00, 0x00, 0x55, 0xCC]

/-- P5's frame: bytes 12..13 are the trailer. -/
def p5 : List Byte :=
  [0xAA, 0xFF, 0x03, 0x00, 0x64, 0x80, 0xC8, 0x80, 0x05, 0x80, 0x00, 0x00, 0x55, 0xCC, 0x2C, 0x01] ++
    [0x07, 0x80, 0x00, 0x00, 0x01, 0x80, 0x01, 0x80, 0x01, 0x80, 0x00, 0x00, 0x55, 0xCC]

/-- The header and `n` bytes 0x11. -/
def hdr11 (n : Nat) : List Byte := [0xAA, 0xFF, 0x03, 0x00] ++ List.replicate n 0x11

/-! ### Well-formedness refuses -/

theorem smoke_readU16Le_length : (Instr.readU16Le (List.replicate 13 0) 0).wellFormed = false := by decide

theorem smoke_readU16Le_offset :
    (Instr.readU16Le (List.replicate 14 0) 13).wellFormed = false ∧
      (Instr.readU16Le (List.replicate 14 0) 12).wellFormed = true := by decide

theorem smoke_toMetres_range :
    (Instr.toMetres 2147483648).wellFormed = false ∧ (Instr.toMetres (-2147483649)).wellFormed = false ∧
      (Instr.toMetres (-2147483648)).wellFormed = true := by decide

theorem smoke_toMps_range :
    (Instr.toMps 2147483648).wellFormed = false ∧ (Instr.toMps (-2147483649)).wellFormed = false ∧
      (Instr.toMps 2147483647).wellFormed = true := by decide

theorem smoke_decodeBlock_length : (Instr.decodeBlock (List.replicate 29 0) .t1).wellFormed = false := by decide

theorem smoke_decodeBlock_offset :
    (Instr.decodeBlock (List.replicate 14 0) .t2).wellFormed = false ∧
      (Instr.decodeBlock (List.replicate 30 0) .t3).wellFormed = true := by decide

theorem smoke_extractMulti_length : (Instr.extractMulti (List.replicate 14 0)).wellFormed = false := by decide

theorem smoke_extractSingle_length : (Instr.extractSingle (List.replicate 30 0)).wellFormed = false := by decide

/-! ### Decoding: words written out from R51, R52, R56 (95_test_vectors.md E4, P3, P5, 2.3) and R8 -/

theorem test_decode_single :
    decodeFrame e4 = .ok (.single { x := 0x84D2, y := 0x01F4, v := 0x80C8, pad0 := 0x11, pad1 := 0x22 }) := by decide

theorem test_decode_multi :
    decodeFrame p3 = .ok (.multi
      { x := 0x812C, y := 0x8190, v := 0x800A, pad0 := 0, pad1 := 0 }
      { x := 0x0000, y := 0x87D0, v := 0x0000, pad0 := 0, pad1 := 0 }
      { x := 0x0000, y := 0x0000, v := 0x0000, pad0 := 0, pad1 := 0 }) := by decide

theorem test_decode_precedence :
    (decodeFrame p5).toOption = some (.multi
      { x := 0x8064, y := 0x80C8, v := 0x8005, pad0 := 0, pad1 := 0 }
      { x := 0xCC55, y := 0x012C, v := 0x8007, pad0 := 0, pad1 := 0 }
      { x := 0x8001, y := 0x8001, v := 0x8001, pad0 := 0, pad1 := 0 }) ∧
      decodeFrame (p5.take 20) =
        .ok (.single { x := 0x8064, y := 0x80C8, v := 0x8005, pad0 := 0, pad1 := 0 }) := by decide

theorem test_decode_corruptByte : decodeFrame (hdr11 26) = .ok .corruptByte := by decide

theorem test_decode_garbageByte :
    decodeFrame ([0xAA, 0xFF, 0x03, 0x01] ++ List.replicate 10 0) = .ok (.garbageByte 0xAA) ∧
      decodeFrame ([0x00, 0xAA, 0xFF, 0x03, 0x00] ++ List.replicate 9 0) = .ok (.garbageByte 0x00) := by decide

theorem test_decode_needMore :
    decodeFrame [] = .error .needMore ∧ decodeFrame (e4.take 13) = .error .needMore ∧
      decodeFrame (p3.take 29) = .error .needMore := by decide

theorem test_decode_plain_operations :
    decodeWord [0x00] = .ok .reset ∧ decodeWord [0x01] = .ok .ingest ∧ decodeWord [0x02] = .ok .pendingUnread ∧
      decodeWord [0x03] = .ok .enforceCapacity ∧ decodeWord [0x04] = .ok .compact ∧
      decodeWord [0x06] = .ok .syncClassify ∧ decodeWord [0x0E] = .ok .decodeCycle := by decide

theorem test_decode_advance :
    decodeWord [0x05, 0x00] = .ok (.advance .one) ∧ decodeWord [0x05, 0x01] = .ok (.advance .fourteen) ∧
      decodeWord [0x05, 0x02] = .ok (.advance .thirty) := by decide

theorem test_decode_readU16Le : decodeWord ([0x07, 0x00, 0x04] ++ e4) = .ok (.readU16Le e4 4) := by decide

theorem test_decode_decodeSigned : decodeWord [0x08, 0x32, 0x80] = .ok (.decodeSigned 0x8032) := by decide

theorem test_decode_toMetres : decodeWord [0x09, 0x0C, 0xFE, 0xFF, 0xFF] = .ok (.toMetres (-500)) := by decide

theorem test_decode_scaling_outside_range :
    decodeWord [0x09, 0x00, 0x80, 0x00, 0x00] = .ok (.toMetres 32768) ∧
      decodeWord [0x0A, 0x00, 0x00, 0x00, 0x80] = .ok (.toMps (-2147483648)) := by decide

theorem test_decode_toMps : decodeWord [0x0A, 0xC8, 0x00, 0x00, 0x00] = .ok (.toMps 200) := by decide

theorem test_decode_decodeBlock : decodeWord ([0x0B, 0x01, 0x02] ++ p3) = .ok (.decodeBlock p3 .t3) := by decide

theorem test_decode_extractMulti : decodeWord (0x0C :: p3) = .ok (.extractMulti p3) := by decide

theorem test_decode_extractSingle : decodeWord (0x0D :: e4) = .ok (.extractSingle e4) := by decide

theorem test_decode_refuses :
    decodeWord [] = .error .emptyWord ∧ decodeWord [0x0F] = .error .unassignedCode ∧
      decodeWord [0x10] = .error .codeOutOfRange ∧ decodeWord [0x05] = .error .truncated ∧
      decodeWord [0x05, 0x03] = .error .badStride ∧ decodeWord [0x00, 0x00] = .error .trailingBytes ∧
      decodeWord ([0x07, 0x02, 0x00] ++ e4) = .error .badFrameKind ∧
      decodeWord ([0x07, 0x00, 0x0D] ++ e4) = .error .offsetOutsideFrame ∧
      decodeWord ([0x0B, 0x01, 0x03] ++ p3) = .error .badBlock := by decide

/-! ### Words of the opcode table -/

theorem test_table_frames :
    decodeTableWord 240 (leValue p3) = (decodeFrame p3).toOption ∧
      decodeTableWord 112 (leValue e4) = (decodeFrame e4).toOption := by decide

theorem test_table_operations :
    ((List.range 15).map fun op => (decodeTableWord 8 op).bind Instr.opCode) = (List.range 15).map some ∧
      decodeTableWord 8 0xF = none := by decide

theorem test_fetch_frames :
    next (step (State.reset.withFetchWord 240 (leValue p3))) (fun t => t.cursor == 30 && t.framesParsed == 1) = true ∧
      next (step (State.reset.withFetchWord 112 (leValue e4)))
        (fun t => t.cursor == 14 && t.framesParsed == 1) = true := by decide +kernel

/-- Every operation word runs as the first step after reset but ADVANCE, whose precondition (R74) fails on an empty buffer. -/
theorem test_fetch_operations :
    ((List.range 15).map fun op => next (step (State.reset.withFetchWord 8 op)) fun t => t.agenda == []) =
      [true, true, true, true, true, false, true, true, true, true, true, true, true, true, true] := by decide +kernel

theorem test_fetch_advance :
    next (step ((filled 20 5).withFetchWord 8 0x5)) (fun t => t.cursor == 6) = true := by decide +kernel

/-! ### One step of each instruction (95_test_vectors.md) -/

theorem test_reset_clears :
    next (exec .reset { filled 40 14 with framesBad := 3, rx := [0x01] })
      (fun t => (buf3 t == (0, 0, 0)) && t.rx == [0x01]) = true := by decide +kernel

theorem test_ingest : next (exec .ingest { filled 2 0 with rx := [1, 2, 3, 4, 5] })
    (fun t => (buf3 t == (7, 0, 0)) && t.readByte 6 == some 5 && t.rx == []) = true := by decide +kernel

theorem test_ingest_full :
    stops (exec .ingest { filled 512 0 with rx := [1], params := { Params.spec with physCap := some 512 } })
      .physCapExceeded = true := by decide +kernel

theorem test_pendingUnread : next (exec .pendingUnread (filled 40 14)) (fun t => t.result == .u16 26) = true := by
  decide +kernel

theorem test_enforceCapacity_above :
    next (exec .enforceCapacity (filled 540 14)) (fun t => buf3 t == (526, 0, 1)) = true ∧
      next (exec .enforceCapacity (filled 513 20)) (fun t => buf3 t == (512, 19, 1)) = true := by decide +kernel

theorem test_enforceCapacity_edge :
    next (exec .enforceCapacity (filled 512 20)) (fun t => buf3 t == (512, 20, 0)) = true ∧
      next (exec .enforceCapacity (filled 513 0)) (fun t => buf3 t == (513, 0, 1)) = true := by decide +kernel

theorem test_compact_moves :
    next (exec .compact (filled 41 21)) (fun t => buf3 t == (20, 0, 0)) = true ∧
      next (exec .compact (at_ [0x10, 0x11, 0x12, 0x13, 0x14, 0x15] 4)) (fun t => t.buf == [0x14, 0x15]) = true := by
  decide +kernel

theorem test_compact_strict :
    next (exec .compact (filled 40 20)) (fun t => buf3 t == (40, 20, 0)) = true := by decide +kernel

theorem test_advance :
    next (exec (.advance .fourteen) (filled 20 5)) (fun t => buf3 t == (20, 19, 0)) = true ∧
      next (exec (.advance .thirty) (filled 60 30)) (fun t => buf3 t == (60, 60, 0)) = true := by decide +kernel

theorem test_advance_stops : stops (exec (.advance .one) (filled 5 5)) .advancePastEnd = true := by decide +kernel

theorem test_syncClassify_rows :
    (at_ (p5.take 29) 0).verdict = .frame .single ∧ (at_ p5 0).verdict = .frame .multi ∧
      (at_ (p3.take 29) 0).verdict = .needMore ∧ (at_ (hdr11 26) 0).verdict = .skip1 true ∧
      (at_ (0x00 :: hdr11 9) 0).verdict = .skip1 false ∧ (at_ (hdr11 9) 0).verdict = .needMore := by decide +kernel

theorem test_syncClassify_returns :
    next (exec .syncClassify (at_ (0x00 :: e4) 1)) (fun t => t.result == .verdict (.frame .single)) = true := by
  decide +kernel

theorem test_readU16Le : next (exec (.readU16Le e4 4) State.reset) (fun t => t.result == .u16 0x84D2) = true := by
  decide +kernel

theorem test_decodeSigned_values :
    ([0x0032, 0x8032, 0x8000, 0x0000, 0x0001, 0x7FFF, 0xFFFF, 0xCC55, 0xC000].map decodeSigned) =
      [-50, 50, 0, 0, -1, -32767, 32767, 19541, 16384] := by decide

theorem test_sm_values :
    ([1234, -500, 200, -1, 32767, -32767, 0].map sm) =
      [0x84D2, 0x01F4, 0x80C8, 0x0001, 0xFFFF, 0x7FFF, 0x0000] := by decide

theorem test_toMetres : next (exec (.toMetres (-500)) State.reset) (fun t => t.result == .real (-1 / 2)) = true := by
  decide +kernel

/-- Outside −32767..32767 both run and only the returned value is open. -/
theorem test_scaling_outside_range :
    next (exec (.toMetres 32768) (filled 20 5)) (fun t => buf3 t == (20, 5, 0)) = true ∧
      next (exec (.toMps (-32768)) (filled 20 5)) (fun t => buf3 t == (20, 5, 0)) = true := by decide +kernel

theorem test_toMps : next (exec (.toMps 200) State.reset) (fun t => t.result == .real 2) = true := by decide +kernel

theorem test_decodeBlock_values :
    decodeBlock false p3 4 = some {
      x_m := 3 / 10, y_m := 4 / 10, speed_mps := 1 / 10, range_m := 1 / 2, bearing_deg := atan2Deg 400 300 } ∧
      decodeBlock false p3 12 = some { x_m := 0, y_m := 2, speed_mps := 0, range_m := 2, bearing_deg := 90 } ∧
      decodeBlock false p3 20 = none := by
  refine ⟨?_, by decide +kernel, by decide +kernel⟩
  simp only [decodeBlock, targetOf, show blockPresent false (readU16LE p3 4) (readU16LE p3 (4 + 2)) (readU16LE p3 (4 + 4)) = true
    from by decide +kernel, if_true, recordOf, show decodeSigned (readU16LE p3 4) = 300 from by decide +kernel,
    show decodeSigned (readU16LE p3 (4 + 2)) = 400 from by decide +kernel,
    show decodeSigned (readU16LE p3 (4 + 4)) = 10 from by decide +kernel,
    show toMetres 300 = 3 / 10 from by decide +kernel, show toMetres 400 = 4 / 10 from by decide +kernel,
    show toMps 10 = 1 / 10 from by decide +kernel, show rangeM 300 400 = 1 / 2 from by decide +kernel]

theorem test_bearing_axes :
    (atan2Deg 0 (-1000), atan2Deg (-1) 0, atan2Deg 1000 1000, atan2Deg (-1000) (-1000), atan2Deg 0 1) =
      (180, -90, 45, -135, 0) := by decide +kernel

/-- E4 and 2.4: range 1.331449, bearing −22.057121, within the source's 1e-3 and what the printed digits leave. -/
theorem test_e4_range_and_bearing :
    |rangeM 1234 (-500) - 1331449 / 1000000| ≤ 1003 / 1000000 ∧
      |atan2Deg (-500) 1234 + 22057121 / 1000000| ≤ 1003 / 1000000 := by
  constructor
  · have h : rangeM 1234 (-500) =
        rangeApprox 1772756 + boundedError storedErrorBound (Config.rangeError 1234 (-500)) := by
      have h1 : normSq 1234 (-500) = 1772756 := by decide
      have h2 : ¬(isqrt 1772756 * isqrt 1772756 = 1772756) := by decide +kernel
      simp only [rangeM, h1, if_neg h2]
    have hb := boundedError_abs_le (bound := storedErrorBound) (by rw [storedErrorBound_eq]; norm_num)
      (Config.rangeError 1234 (-500))
    have ha : |rangeApprox 1772756 - 1331449 / 1000000| ≤ 1 / 1000000 := by decide +kernel
    rw [h]
    rw [storedErrorBound_eq] at hb
    rw [storedErrorBound_eq]
    rw [abs_le] at *
    constructor <;> linarith [hb.1, hb.2, ha.1, ha.2]
  · have h : atan2Deg (-500) 1234 =
        bearingApprox 1234 (-500) + boundedError storedErrorBound (Config.bearingError 1234 (-500)) := rfl
    have hb := boundedError_abs_le (bound := storedErrorBound) (by rw [storedErrorBound_eq]; norm_num)
      (Config.bearingError 1234 (-500))
    have ha : |bearingApprox 1234 (-500) + 22057121 / 1000000| ≤ 1 / 1000000 := by decide +kernel
    rw [h]
    rw [storedErrorBound_eq] at hb
    rw [storedErrorBound_eq]
    rw [abs_le] at *
    constructor <;> linarith [hb.1, hb.2, ha.1, ha.2]

theorem test_decodeBlock :
    next (exec (.decodeBlock p3 .t2) State.reset) (fun t => t.result == .block (some
      { x_m := 0, y_m := 2, speed_mps := 0, range_m := 2, bearing_deg := 90 })) = true ∧
      next (exec (.decodeBlock p3 .t3) State.reset)
        (fun t => t.result == .block none && t.events == [.noTarget .t3]) = true := by decide +kernel

/-- 2.4, row `(+0, +0, +0)`: absent, and present under PRESENT_ON_RAW. -/
theorem test_present_on_raw :
    targetOf false 0x8000 0x8000 0x8000 = none ∧ (targetOf true 0x8000 0x8000 0x8000).present = true := by decide +kernel

theorem test_normalise :
    ([340, -340, 180, -180, -361 / 2, 0, 540, 560, -600].map normalise) =
      [-20, 20, 180, -180, 359 / 2, 0, 180, 200, -240] := by decide +kernel

/-- 2.4: EXTRACT_SINGLE on `SINGLE -1000, 0, -50` with offset 10 gives −170; EXTRACT_MULTI ignores the offset. -/
theorem test_extractSingle :
    next (exec (.extractSingle (encode (.single (blk (-1000) 0 (-50))))) (State.reset.setInstallOffset (.finite 10)))
      (fun t => t.result == .block (some
        { x_m := -1, y_m := 0, speed_mps := -1 / 2, range_m := 1, bearing_deg := -170 })) = true := by decide +kernel

theorem test_extractMulti :
    next (exec (.extractMulti (encode (.multi (blk 0 0 0) (blk 0 0 0) (blk (-1000) 0 (-50)))))
      (State.reset.setInstallOffset (.finite 45)))
      (fun t => t.result == .blocks (Slots.mk none none (some
        { x_m := -1, y_m := 0, speed_mps := -1 / 2, range_m := 1, bearing_deg := 180 }))) = true := by decide +kernel

/-- P3, second cycle, its MULTI step: slots 1 and 2, NEAREST 0.5. -/
theorem test_multi :
    next (exec (.multi (blk 300 400 10) (blk 0 2000 0) (blk 0 0 0)) (at_ p3 0))
      (fun t => (t.slot .t2 == some { x_m := 0, y_m := 2, speed_mps := 0, range_m := 2, bearing_deg := 90 }) &&
        t.slot .t3 == none && t.nearest == 1 / 2 && t.cursor == 30 && t.framesParsed == 1) = true := by decide +kernel

/-- 2.4, NEAREST: ranges `[2.0, 1.0, 3.0]` give 1.0; `[0, 3.0]` gives 3.0; `[3.0, 0]` gives 0. -/
theorem test_nearest :
    ([2, 1, 3].foldl nearer 0, [0, 3].foldl nearer 0, [3, 0].foldl nearer 0) = ((1 : F), (3 : F), (0 : F)) := by
  decide +kernel

/-- P7, third frame: `SINGLE 0, 3000, -100`, slot 1 overwritten, slot 2 left. -/
theorem test_single :
    next (exec (.single (blk 0 3000 (-100)))
      (setSlot .t2 (some { x_m := 0, y_m := -2, speed_mps := 0, range_m := 2, bearing_deg := -90 }) (filled 20 5)))
      (fun t => (t.slot .t1 == some { x_m := 0, y_m := 3, speed_mps := -1, range_m := 3, bearing_deg := 90 }) &&
        (t.slot .t2).present && t.cursor == 19 && t.framesParsed == 1) = true := by decide +kernel

theorem test_corruptByte :
    next (exec .corruptByte (at_ (hdr11 26) 0)) (fun t => (buf3 t == (30, 1, 1)) && t.events == [.corruptHeader]) = true := by
  decide +kernel

theorem test_garbageByte :
    next (exec (.garbageByte 0x22) (filled 20 5)) (fun t => (buf3 t == (20, 6, 0)) && t.events == [.desync]) = true := by
  decide +kernel

/-- P3, first cycle. -/
theorem test_decodeCycle_waits :
    next (exec .decodeCycle (State.reset.deliver (p3.take 20)))
      (fun t => (buf3 t == (20, 0, 0)) && t.bytesPending == 20 && t.framesParsed == 0 && t.lastSeen == none) = true := by
  decide +kernel

/-- P5, delivery B, first cycle: the front of a multi frame taken for a single frame, six bytes left. -/
theorem test_decodeCycle_hazard :
    next (exec .decodeCycle (State.reset.deliver (p5.take 20)))
      (fun t => t.buf == [0x2C, 0x01, 0x07, 0x80, 0x00, 0x00] && t.cursor == 0 && t.framesParsed == 1) = true := by
  decide +kernel

/-- R63: the notation expands to the bytes of E4 and P3, cut after byte 20. -/
theorem test_stream_notation :
    chunks [.singlePad (triple 1234 (-500) 200) 0x11 0x22] = [e4] ∧
      chunks [.multi (some (triple 300 400 10)) (some (triple 0 2000 0)) none] = [p3] ∧
      chunks [.raw (p3.take 20), .cut, .raw (p3.drop 20)] = [p3.take 20, p3.drop 20] := by decide

/-! ### Witnesses: the hypotheses of each obligation, clause by clause, met by a concrete state and operands -/

/-- The decoder answers this. -/
def decodesTo (r : Except DecodeError Instr) (i : Instr) : Bool := r.toOption == some i

theorem witness_OperationWordsRoundTrip :
    ([Instr.reset, .ingest, .pendingUnread, .enforceCapacity, .compact, .advance .thirty, .syncClassify, .readU16Le p3 28,
      .decodeSigned 0xFFFF, .toMetres (-2147483648), .toMps 2147483647, .decodeBlock p3 .t3, .extractMulti p3, .extractSingle e4,
      .decodeCycle].all fun i => i.wellFormed && i.isOp) = true := by decide

theorem witness_FramesRoundTrip_single :
    ((List.replicate 14 0x11#8 ++ [0x55, 0xCD]).drop 14).take 2 ≠ [0x55, 0xCC] ∧
      (([] : List Byte).drop 14).take 2 ≠ [0x55, 0xCC] := by decide

theorem witness_FramesRoundTrip_garbageByte :
    13 ≤ (List.replicate 13 0x00#8).length ∧
      (encode (.garbageByte 0xAA) ++ List.replicate 13 0x00#8).take 4 ≠ [0xAA, 0xFF, 0x03, 0x00] := by decide

theorem witness_FramesRoundTrip_corruptByte :
    29 ≤ ((hdr11 26).drop 1).length ∧ ((hdr11 26).drop 1).take 3 = [0xFF, 0x03, 0x00] ∧
      (((hdr11 26).drop 1).drop 27).take 2 ≠ [0x55, 0xCC] ∧ (((hdr11 26).drop 1).drop 11).take 2 ≠ [0x55, 0xCC] := by
  decide

theorem witness_DecodedRowIsTheUnreadFront :
    decodeFrame e4 = .ok (.single { x := 0x84D2, y := 0x01F4, v := 0x80C8, pad0 := 0x11, pad1 := 0x22 }) ∧
      decodeFrame (hdr11 26) = .ok .corruptByte := by decide

/-- One window for each row: 30 bytes and both trailers; 14 and 29 bytes and a trailer at 12; 30 bytes and none; 14 bytes
and no header; 14 and 29 bytes with a header and no trailer; 13 bytes. -/
theorem witness_SelectionTableRows :
    let row (w : List Byte) (U : Nat) (h t28 t12 : Bool) : Bool := w.length == U && (w.take 4 == Config.HDR) == h &&
      ((w.drop 28).take 2 == Config.TRL) == t28 && ((w.drop 12).take 2 == Config.TRL) == t12
    (row p5 30 true true true && row e4 14 true false true && row (p5.take 29) 29 true false true &&
      row (hdr11 26) 30 true false false && row (List.replicate 14 0x00) 14 false false false &&
      row (hdr11 10) 14 true false false && row (hdr11 25) 29 true false false && row (hdr11 9) 13 true false false) =
      true := by decide

/-- E4's block, with other ignored bytes. -/
def padded (p q : Byte) : Block := { x := 0x84D2, y := 0x01F4, v := 0x80C8, pad0 := p, pad1 := q }

theorem witness_IgnoredBytesHaveNoEffect_rows :
    SameRead (.single (padded 0x11 0x22)) (.single (padded 0x00 0xFF)) ∧
      SameRead (.multi (padded 0x11 0x22) (padded 0 0) (padded 1 2)) (.multi (padded 0 0) (padded 3 4) (padded 5 6)) :=
  ⟨.single ⟨rfl, rfl, rfl⟩, .multi ⟨rfl, rfl, rfl⟩ ⟨rfl, rfl, rfl⟩ ⟨rfl, rfl, rfl⟩⟩

/-- Sequences that agree at every offset within their length but the listed ones. -/
theorem agreeOff_of {ignored : List Nat} {f g : List Byte} (hl : f.length = g.length)
    (h : ∀ k < f.length, k ∉ ignored → f[k]? = g[k]?) : AgreeOff ignored f g := by
  refine ⟨hl, fun k hk => ?_⟩
  by_cases hf : k < f.length
  · exact h k hf hk
  · rw [List.getElem?_eq_none (by omega), List.getElem?_eq_none (by omega)]

theorem witness_IgnoredBytesHaveNoEffect_copies :
    AgreeOff [10, 11] e4 (encode (.single (padded 0x00 0xFF))) ∧
      AgreeOff [TargetIdx.t1.blkOff + 6, TargetIdx.t1.blkOff + 7] e4 (encode (.single (padded 0x00 0xFF))) ∧
      AgreeOff [10, 11, 18, 19, 26, 27] (encode (.multi (padded 0 0) (padded 0 0) (padded 0 0)))
        (encode (.multi (padded 1 2) (padded 3 4) (padded 5 6))) :=
  ⟨agreeOff_of (by decide) (by decide), agreeOff_of (by decide) (by decide), agreeOff_of (by decide) (by decide)⟩

/-- Two streams, a garbage byte and E4's frame, with different ignored bytes. -/
theorem witness_IgnoredBytesHaveNoEffect_cycle :
    let s : State := State.reset.deliver (0x00 :: e4)
    let rx : List Byte := 0x00 :: encode (.single (padded 0x00 0xFF))
    rx.length = s.rx.length ∧ List.Forall₂ SameRead s.cycleRows ({ s with buf := [], rx := rx } : State).cycleRows := by
  have h1 : (State.reset.deliver (0x00 :: e4)).cycleRows = [.garbageByte 0, .single (padded 0x11 0x22)] := by
    decide +kernel
  have h2 : ({ State.reset.deliver (0x00 :: e4) with
      buf := [], rx := 0x00 :: encode (.single (padded 0x00 0xFF)) } : State).cycleRows =
      [.garbageByte 0, .single (padded 0x00 0xFF)] := by decide +kernel
  refine ⟨by decide, ?_⟩
  rw [h1, h2]
  exact .cons (.same _) (.cons (.single ⟨rfl, rfl, rfl⟩) .nil)

theorem witness_StepRunsOperationWord :
    (State.reset.withFetchWord 8 0x4).agenda = [.word [0x04]] ∧ decodeWord [0x04] = .ok .compact ∧
      (State.reset.withFetchWord 8 0xF).agenda.length = 1 ∧ decodeWord [0x0F] = .error .unassignedCode := by decide

theorem witness_StepRunsRowAtCursor :
    (State.reset.withFetchWord 112 (leValue e4)).agenda = [.drain] ∧
      decodesTo (decodeFrame (State.reset.withFetchWord 112 (leValue e4)).view)
        (.single { x := 0x84D2, y := 0x01F4, v := 0x80C8, pad0 := 0x11, pad1 := 0x22 }) = true ∧
      ({ at_ (hdr11 9) 0 with agenda := [.drain] } : State).agenda = .drain :: [] ∧
      decodeFrame ({ at_ (hdr11 9) 0 with agenda := [.drain] } : State).view = .error .needMore := by decide

theorem witness_InnerStepsAndIdle :
    State.reset.agenda = [] ∧ ({ State.reset with agenda := [.clearTargets] } : State).agenda = .clearTargets :: [] ∧
      ({ filled 5 5 with agenda := [.sample] } : State).agenda = .sample :: [] ∧ (filled 5 5).cursor ≤ (filled 5 5).len := by
  decide

theorem witness_ReadU16LittleEndian : 12 + 2 ≤ e4.length ∧ e4[12]? = some 0x55 ∧ e4[12 + 1]? = some 0xCC := by decide

theorem witness_DecodeSignedLaws :
    decodeSigned 0xFFFF ≠ 0 ∧ decodeSigned 0xFFFF = decodeSigned 0xFFFF ∧ decodeSigned 0x7FFF ≠ 0 := by decide

theorem witness_SignedEncoderInverse : (-32767 : Int) ≤ -32767 ∧ (-32767 : Int) ≤ 32767 ∧ decodeSigned 0x8001 ≠ 0 := by
  decide

theorem witness_UnitScaling :
    ((-32767 : Int) ≤ 32767 ∧ (32767 : Int) ≤ 32767) ∧ ((-32767 : Int) ≤ -32767 ∧ (-32767 : Int) ≤ 32767) ∧
      ¬(32768 : Int) ≤ 32767 := by decide

theorem witness_IngestAppendsAllOfRx :
    let cap : Params := { Params.spec with physCap := some 512 }
    cap.fits ((filled 511 0).len + [0x01#8].length) = true ∧ cap.fits ((filled 512 0).len + [0x01#8].length) = false := by
  decide +kernel

theorem witness_PendingUnreadReportsUnreadCount :
    (filled 5 5).cursor ≤ (filled 5 5).len ∧ (filled 5 6).len < (filled 5 6).cursor := by decide

theorem witness_EnforceCapacityEvictsConsumedBytes :
    (filled 512 20).len ≤ 512 ∧ 512 < (filled 513 0).len ∧ (filled 513 0).params.counts ((filled 513 0).framesBad + 1) = true ∧
      ({ Params.spec with ctrW := some 0 } : Params).counts ((filled 513 0).framesBad + 1) = false := by decide +kernel

theorem witness_CapacityIsConditional :
    (filled 540 14).cursor ≤ (filled 540 14).len ∧ 512 < (filled 540 14).len ∧
      next (exec .enforceCapacity (filled 540 14)) (fun _ => true) = true := by decide +kernel

theorem witness_CompactReclaimsMoreThanHalf :
    0 < (filled 41 21).cursor ∧ (filled 41 21).len < 2 * (filled 41 21).cursor ∧ (filled 7 0).cursor = 0 ∧
      2 * (filled 40 20).cursor ≤ (filled 40 20).len := by decide

theorem witness_AdvanceMovesCursor : (filled 35 5).cursor + Stride.thirty.bytes ≤ (filled 35 5).len := by decide

theorem witness_DropFrontRenumbers : 4 ≤ (filled 6 4).cursor ∧ (filled 6 4).cursor ≤ (filled 6 4).len := by decide

/-- One state for each clause, at the ends of its range of unread bytes. -/
theorem witness_SyncClassifyLineByLine :
    (at_ (hdr11 9) 0).len - 0 < 14 ∧
      (14 ≤ (filled 14 0).len - (filled 14 0).cursor ∧ ¬(filled 14 0).headerHere) ∧
      (30 ≤ (at_ p5 0).len - 0 ∧ (at_ p5 0).headerHere ∧ (at_ p5 0).trailerHere 28) ∧
      (14 ≤ (at_ e4 0).len - 0 ∧ (at_ e4 0).headerHere ∧ ¬(30 ≤ (at_ e4 0).len - 0 ∧ (at_ e4 0).trailerHere 28) ∧
        (at_ e4 0).trailerHere 12) ∧
      (30 ≤ (at_ (hdr11 26) 0).len - 0 ∧ (at_ (hdr11 26) 0).headerHere ∧ ¬(at_ (hdr11 26) 0).trailerHere 28 ∧
        ¬(at_ (hdr11 26) 0).trailerHere 12) ∧
      (14 ≤ (at_ (p3.take 29) 0).len - 0 ∧ (at_ (p3.take 29) 0).len - 0 < 30 ∧ (at_ (p3.take 29) 0).headerHere ∧
        ¬(at_ (p3.take 29) 0).trailerHere 12) := by decide

/-- E1, P1: three garbage bytes that end in a partial header. -/
theorem witness_ResynchronisesOverGarbage :
    let s : State := { at_ ([0x00, 0xAA, 0xFF] ++ e4) 0 with agenda := [.drain] }
    s.agenda = .drain :: [] ∧ s.view = [0x00, 0xAA, 0xFF] ++ e4 ∧ 13 ≤ e4.length ∧
      ∀ k < 3, (([0x00, 0xAA, 0xFF] ++ e4).drop k).take 4 ≠ [0xAA, 0xFF, 0x03, 0x00] := by decide

/-- The end of its range: 13 bytes after the last garbage byte. -/
theorem witness_ResynchronisesOverGarbage_edge :
    let s : State := { at_ (0x00 :: List.replicate 13 0x11) 0 with agenda := [.drain] }
    s.view = [0x00] ++ List.replicate 13 0x11 ∧ 13 ≤ (List.replicate 13 0x11#8).length := by decide

theorem witness_MultiFrameTakesPrecedence :
    (at_ p5 0).headerHere ∧ (at_ p5 0).trailerHere 12 ∧ 30 ≤ (at_ p5 0).len - 0 ∧ (at_ p5 0).trailerHere 28 ∧
      (at_ (p5.take 29) 0).headerHere ∧ (at_ (p5.take 29) 0).trailerHere 12 ∧
      14 ≤ (at_ (p5.take 29) 0).len - 0 ∧ (at_ (p5.take 29) 0).len - 0 < 30 := by decide

theorem witness_ChunkingHazard :
    (blk 19541 (-300) 7).x = 0xCC55 ∧
      ([13, 14, 29, 30].all fun k => (at_ (p5.take k) 0).view ==
        (encode (.multi (blk 100 200 5) (blk 19541 (-300) 7) (blk 1 1 1))).take k) = true := by decide

theorem witness_SkipsAdvanceOneByte :
    1 ≤ (filled 5 4).unread ∧ (filled 5 4).params.counts ((filled 5 4).framesBad + 1) = true ∧
      ({ Params.spec with ctrW := some 0 } : Params).counts ((filled 5 4).framesBad + 1) = false := by decide +kernel

theorem witness_DecodeBlockReadsThreeWords :
    TargetIdx.t3.blkOff + 6 ≤ (p3.take 26).length ∧ State.reset.params.presentOnRaw = false ∧
      decodeSigned (readU16LE p3 20) = 0 ∧ decodeSigned (readU16LE p3 22) = 0 ∧ decodeSigned (readU16LE p3 24) = 0 ∧
      decodeSigned (readU16LE p3 4) ≠ 0 := by decide

theorem witness_DecodeBlockReadsThreeWords_onRaw :
    let s : State := { State.reset with params := { Params.spec with presentOnRaw := true } }
    s.params.presentOnRaw = true ∧ readU16LE p3 20 = 0 ∧ readU16LE p3 22 = 0 ∧ readU16LE p3 24 = 0 ∧
      readU16LE p3 4 ≠ 0 := by decide

theorem witness_OperationsStopOutsideTheirOperands :
    (filled 34 5).cursor ≤ (filled 34 5).len ∧ (filled 34 5).len < (filled 34 5).cursor + Stride.thirty.bytes ∧
      e4.length < 13 + 2 ∧ (p3.take 25).length < TargetIdx.t3.blkOff + 6 ∧ (p3.take 29).length ≠ 30 ∧
      p3.length ≠ 14 := by decide

theorem witness_RangeIsEuclidean : (3000 : Int) ^ 2 + 4000 ^ 2 = ((5000 : Nat) : Int) ^ 2 := by decide

theorem witness_BearingAxesAndInterval :
    (0 : Int) < 1 ∧ (-32767 : Int) ≤ 32767 ∧ (32767 : Int) ≤ 32767 ∧ (-32767 : Int) ≤ 1 ∧ (1 : Int) ≤ 32767 ∧
      ¬((32767 : Int) = 0 ∧ (1 : Int) = 0) := by decide

theorem witness_BearingIsTheAngle :
    (-32767 : Int) ≤ -32767 ∧ (-32767 : Int) ≤ 32767 ∧ ¬((-32767 : Int) = 0 ∧ (-32767 : Int) = 0) := by decide

theorem witness_NormaliseOneTurn :
    (180 : F) < 181 ∧ (-181 : F) < -180 ∧ (-180 : F) ≤ -180 ∧ (-180 : F) ≤ 180 ∧
      (-180 : F) < 180 ∧ (180 : F) ≤ 180 ∧ (-360 : F) < 360 ∧ (360 : F) ≤ 360 ∧ (180 : F) + 360 ≠ -180 := by decide +kernel

theorem witness_ExtractMultiThreeBlocks : p3.length = 30 := by decide

theorem witness_ExtractSingleCorrectsBearing :
    e4.length = 14 ∧ decodeBlock State.reset.params.presentOnRaw (encode (.single (blk 0 0 0))) 4 = none ∧
      decodeBlock State.reset.params.presentOnRaw (encode (.single (blk (-1000) 0 (-50)))) 4 =
        some { x_m := -1, y_m := 0, speed_mps := -1 / 2, range_m := 1, bearing_deg := 180 } ∧
      State.reset.installOffsetDeg = .finite 0 ∧
      (State.reset.setInstallOffset .nonFinite).installOffsetDeg = .nonFinite := by decide +kernel

theorem witness_MultiFrameDelivered :
    30 ≤ (filled 35 5).unread ∧ (filled 35 5).params.counts ((filled 35 5).framesParsed + 1) = true := by decide

theorem witness_SingleFrameDelivered :
    14 ≤ (filled 19 5).unread ∧ (filled 19 5).params.counts ((filled 19 5).framesParsed + 1) = true ∧
      targetOf (filled 19 5).params.presentOnRaw 0x8000 0 0 = none ∧
      targetOf (filled 19 5).params.presentOnRaw 0x03E8 0 0x0032 =
        some { x_m := -1, y_m := 0, speed_mps := -1 / 2, range_m := 1, bearing_deg := 180 } ∧
      (filled 19 5).installOffsetDeg = .finite 0 := by decide +kernel

theorem witness_FrameRowsStop :
    (filled 34 5).unread < 30 ∧ (filled 18 5).unread < 14 ∧ (filled 5 5).unread < 1 ∧ 30 ≤ (filled 30 0).unread ∧
      14 ≤ (filled 14 0).unread ∧ (filled 14 0).installOffsetDeg = .finite 0 ∧ targetOf false 0 0x8000 0 = none ∧
      ({ Params.spec with ctrW := some 0 } : Params).counts ((filled 30 0).framesParsed + 1) = false := by decide

/-- A machine with CTR_W and PHYS_CAP finite, under this install angle, with these bytes in RX. -/
def bounded (w : Nat) (angle : InstallAngle) (bytes : List Byte) : State :=
  { (State.reset.setInstallOffset angle).deliver bytes with
    params := { Params.spec with ctrW := some w, physCap := some 512 } }

/-- A finite CTR_W with just room for one frame and one corrupt header, and a non-finite angle on a stream whose one
single frame is absent. -/
theorem witness_DecodeCycleCompletes :
    let s := bounded 1 .nonFinite (hdr11 26 ++ p3)
    let r := bounded 1 .nonFinite (encode (.single (blk 0 0 0)))
    s.params.fits (s.len + s.rx.length) = true ∧ s.CycleHasRoom ∧ s.CycleAngleUsable ∧ s.cycleFrames = 1 ∧
      s.cycleBad = 1 ∧ r.params.fits (r.len + r.rx.length) = true ∧ r.CycleHasRoom ∧ r.CycleAngleUsable := by
  have h1 : (bounded 1 .nonFinite (hdr11 26 ++ p3)).cycleRows =
      .corruptByte :: (hdr11 26).tail.map .garbageByte ++
        [.multi (blk 300 400 10) (blk 0 2000 0) (blk 0 0 0)] := by decide +kernel
  have h2 : (bounded 1 .nonFinite (encode (.single (blk 0 0 0)))).cycleRows = [.single (blk 0 0 0)] := by decide +kernel
  refine ⟨by decide +kernel, ⟨.inr (by decide +kernel), .inr (by decide +kernel)⟩, .inr fun b hb => ?_, by decide +kernel,
    by decide +kernel, by decide +kernel, ⟨.inr (by decide +kernel), .inl (by decide +kernel)⟩, .inr fun b hb => ?_⟩
  · rw [h1] at hb
    simp [hdr11] at hb
  · rw [h2] at hb
    simp only [List.mem_singleton, Instr.single.injEq] at hb
    subst hb
    decide +kernel

/-- A chunk beyond PHYS_CAP; a counter without room; a present single target under a non-finite angle; and the last two. -/
theorem witness_DecodeCycleStops :
    let full := bounded 1 (.finite 0) (List.replicate 513 0x22)
    let twice := bounded 1 (.finite 0) (e4 ++ e4)
    let tilted := bounded 1 .nonFinite e4
    let both := bounded 0 .nonFinite e4
    full.params.fits (full.len + full.rx.length) = false ∧
      (twice.params.fits (twice.len + twice.rx.length) = true ∧ ¬twice.CycleHasRoom ∧ twice.CycleAngleUsable) ∧
      (tilted.params.fits (tilted.len + tilted.rx.length) = true ∧ tilted.CycleHasRoom ∧ ¬tilted.CycleAngleUsable) ∧
      (both.params.fits (both.len + both.rx.length) = true ∧ ¬both.CycleHasRoom ∧ ¬both.CycleAngleUsable) := by
  have frames (w : Nat) (a : InstallAngle) (h : .single (padded 0x11 0x22) ∈ (bounded w a e4).cycleRows)
      (ha : a = .nonFinite) : ¬(bounded w a e4).CycleAngleUsable := by
    subst ha
    rintro (⟨deg, hd⟩ | hu)
    · cases hd
    · have := congrArg Option.isSome (hu _ h)
      revert this
      exact (by decide +kernel : ¬(targetOf false 0x84D2 0x01F4 0x80C8).isSome = false)
  refine ⟨by decide +kernel, ⟨by decide +kernel, ?_, .inl ⟨0, rfl⟩⟩,
    ⟨by decide +kernel, ⟨.inr (by decide +kernel), .inl (by decide +kernel)⟩, frames 1 _ (by decide +kernel) rfl⟩,
    ⟨by decide +kernel, ?_, frames 0 _ (by decide +kernel) rfl⟩⟩
  · rintro ⟨h | h, -⟩ <;> revert h <;> decide +kernel
  · rintro ⟨h | h, -⟩ <;> revert h <;> decide +kernel

/-- Also the witness of CycleEndsWaiting and of SingleStepsRefineDecodeCycle. -/
theorem witness_CycleEndBounds :
    (State.reset.deliver (p5.take 20)).cursor ≤ (State.reset.deliver (p5.take 20)).len ∧
      next (exec .decodeCycle (State.reset.deliver (p5.take 20))) (fun t => t.unread == 6) = true := by decide +kernel

/-- 29 bytes of a multi frame wait: the second case of R97. -/
theorem witness_CycleEndsWaiting :
    next (exec .decodeCycle (State.reset.deliver (p3.take 29)))
      (fun t => t.unread == 29 && decide t.headerHere && decide ¬t.trailerHere 12) = true := by decide +kernel

theorem witness_SingleStepsRefineDecodeCycle :
    next (exec .decodeCycle (State.reset.deliver p3)) (fun t => t.framesParsed == 1) = true := by decide +kernel

/-- 14 consumed and 20 unread bytes of a waiting multi frame. -/
def waiting : State := { at_ (List.replicate 14 0x22 ++ p3.take 20) 14 with bytesPending := 20 }

theorem waiting_inv : waiting.Inv :=
  ⟨by decide, by decide, by decide, by decide, by decide, by decide +kernel⟩

theorem witness_EmptyCycle :
    waiting.Inv ∧ waiting.Boundary ∧ waiting.rx = [] ∧ waiting.verdict = .needMore ∧ 2 * waiting.cursor ≤ waiting.len :=
  ⟨waiting_inv, ⟨by decide, by decide, by decide, by decide⟩, by decide, by decide, by decide⟩

theorem witness_DrainLoopBound : (at_ p5 0).unread - 13 < 18 := by decide

theorem witness_PartialFrameRetention :
    let s : State := { State.reset with rx := p3.take 20 }
    (blk 0 2000 0).x ≠ 0xCC55 ∧ 20 < 30 ∧ s.Inv ∧ s.view = [] ∧ s.len ≤ 58 ∧ s.params.physCap = none ∧
      s.params.ctrW = none ∧ s.rx = (encode (.multi (blk 300 400 10) (blk 0 2000 0) (blk 0 0 0))).take 20 :=
  ⟨by decide, by decide, ⟨by decide, by decide, by decide, by decide, by decide, by decide +kernel⟩, by decide, by decide,
    by decide, by decide, by decide⟩

theorem witness_StepKeepsTheInvariants :
    ({ waiting with agenda := [.word [0x0E]] } : State).Inv ∧
      next (step { waiting with agenda := [.word [0x0E]] }) (fun t => t.bytesPending == 20) = true :=
  ⟨⟨by decide, by decide, by decide, by decide, by decide, by decide +kernel⟩, by decide +kernel⟩

theorem witness_HostRunStaysWithinBounds_step :
    let s : State := { waiting with agenda := [.word [0x0E], .word [0x00]] }
    s.Inv ∧ s.Boundary ∧ s.hostAgenda = true ∧ next (step s) (fun t => t.agenda == [.word [0x00]]) = true :=
  ⟨⟨by decide, by decide, by decide, by decide, by decide, by decide +kernel⟩, ⟨by decide, by decide, by decide, by decide⟩,
    by decide, by decide +kernel⟩

/-- Bytes delivered, a cycle issued and run: a reachable state with a decoded frame. -/
theorem witness_HostRunStaysWithinBounds : ∃ t, Reachable t ∧ t.framesParsed = 1 := by
  have h : next (step (((State.reset.deliver e4).setInstallOffset (.finite 10)).issue .decodeCycle))
      (fun t => t.framesParsed == 1) = true := by decide +kernel
  cases hs : step (((State.reset.deliver e4).setInstallOffset (.finite 10)).issue .decodeCycle) with
  | next t =>
    rw [hs] at h
    exact ⟨t, .step (.cycle (.angle _ (.deliver e4 .start))) hs, by simpa [next] using h⟩
  | fault r => cases r
  | refused r =>
    rw [hs] at h
    cases h

theorem witness_StreamIsConserved :
    (filled 44 14).cursor ≤ (filled 44 14).len ∧
      ([Instr.ingest, .enforceCapacity, .compact, .advance .fourteen, .multi (blk 0 0 0) (blk 0 0 0) (blk 0 0 0)].all
        fun i => i != .reset && next (exec i (filled 44 14)) fun _ => true) = true := by decide +kernel

theorem witness_BufferOwnership :
    ([Instr.syncClassify, .readU16Le e4 4, .decodeSigned 0, .toMetres 0, .toMps 0, .decodeBlock e4 .t1, .extractMulti p3,
      .extractSingle e4].all fun i => i.opCode.all (6 ≤ ·) && i.isOp && i != .decodeCycle &&
        next (exec i (filled 44 14)) fun _ => true) = true ∧
      ([Instr.pendingUnread, .advance .one, .single (blk 0 0 0), .corruptByte, .ingest].all
        fun i => next (exec i (filled 44 14)) fun _ => true) = true := by decide +kernel

theorem witness_CountersCountEvents :
    next (exec .decodeCycle (State.reset.deliver (hdr11 26))) (fun t => t.framesBad == 1) = true ∧
      next (exec .enforceCapacity (filled 513 0)) (fun t => t.framesBad == 1) = true := by decide +kernel

theorem witness_WhoWritesWhat :
    next (exec (.single (blk (-1000) 0 (-50))) (filled 44 14)) (fun t => (t.slot .t1).present) = true ∧
      next (exec .compact (filled 44 23)) (fun t => t.cursor == 0) = true := by decide +kernel

theorem witness_MultiIgnoresInstallAngle :
    next (exec (.multi (blk 300 400 10) (blk 0 2000 0) (blk 0 0 0)) (at_ p3 0)) (fun _ => true) = true := by decide +kernel

/-- A ring of 512 bytes whose contents wrap around its end. -/
def wrapped : Ring := { cap := 512, mem := [(0, 0xCC), (511, 0x55)], head := 511, len := 2, cursor := 2 }

theorem witness_RingAppendRefines :
    wrapped.wf = true ∧ wrapped.len < wrapped.cap ∧ ({ wrapped with len := 512 } : Ring).wf = true ∧
      ({ wrapped with len := 512 } : Ring).cap ≤ ({ wrapped with len := 512 } : Ring).len ∧
      wrapped.toBuf = [0x55, 0xCC] := by decide +kernel

theorem witness_RingDropFrontRefines : wrapped.wf = true ∧ 2 ≤ wrapped.cursor ∧ (wrapped.dropFront 2).head = 1 := by
  decide +kernel

end Sys2Proof.Tests
end

section
/-! PROOFS. Operation words: reading back what `encode` writes (00_scope.md R8; operand bytes, log entry 6). First what each
operand's bytes read back as, then each operation that has operands, then the round trip. -/

namespace Sys2Proof

/-! ### Operands -/

theorem splitBytes_append {n : Nat} {f : List Byte} (h : f.length = n) (rest : List Byte) :
    splitBytes n (f ++ rest) = .ok (f, rest) := by
  subst h
  simp [splitBytes]

@[simp] theorem strideOf_strideByte (n : Stride) : strideOf (strideByte n).toNat = .ok n := by
  cases n <;> rfl

@[simp] theorem blockOf_blockByte (j : TargetIdx) : blockOf (blockByte j).toNat = .ok j := by
  cases j <;> rfl

theorem isFrameLen_iff (f : List Byte) : isFrameLen f = true ↔ f.length = 14 ∨ f.length = 30 := by
  simp [isFrameLen, Config.LEN_SINGLE, Config.LEN_MULTI]

/-- The kind byte announces the frame copy's own length. -/
theorem frameLenOf_frameKindByte {f : List Byte} (h : isFrameLen f = true) :
    frameLenOf (frameKindByte f).toNat = .ok f.length := by
  obtain h | h := (isFrameLen_iff f).1 h
  · simp [frameKindByte, h, frameLenOf, Config.LEN_SINGLE, Config.LEN_MULTI]
  · simp [frameKindByte, h, frameLenOf, Config.LEN_MULTI]

theorem splitFrameOperand_append {f : List Byte} (h : isFrameLen f = true) (k : Byte) (rest : List Byte) :
    splitFrameOperand (frameKindByte f :: k :: (f ++ rest)) = .ok (k.toNat, f, rest) := by
  simp [splitFrameOperand, frameLenOf_frameKindByte h, splitBytes_append]

/-- Where the field lies inside a frame copy, its offset fits the one operand byte. -/
theorem toNat_offsetByte {f : List Byte} {offset : Nat} (h : isFrameLen f = true) (ho : offset + 2 ≤ f.length) :
    (BitVec.ofNat 8 offset).toNat = offset := by
  have hf := (isFrameLen_iff f).1 h
  rw [BitVec.toNat_ofNat]
  omega

@[simp] theorem int32Bytes_length (n : Int) : (int32Bytes n).length = 4 := leBytes_length 4 _

/-- Four bytes hold every `int32`, sign included (R6). -/
theorem toInt_leValue_int32Bytes {n : Int} (h : isInt32 n = true) :
    (BitVec.ofNat 32 (leValue (int32Bytes n))).toInt = n := by
  obtain ⟨hlo, hhi⟩ : -2 ^ 31 ≤ n ∧ n < 2 ^ 31 := by simpa [isInt32] using h
  have hvalue : leValue (int32Bytes n) = (BitVec.ofInt 32 n).toNat := by
    rw [int32Bytes, leValue_leBytes]
    exact Nat.mod_eq_of_lt (BitVec.ofInt 32 n).isLt
  rw [hvalue, BitVec.ofNat_toNat, BitVec.setWidth_eq, BitVec.toInt_ofInt_eq_self (by decide) hlo hhi]

theorem checked_of_wellFormed {i : Instr} (h : i.wellFormed = true) (e : DecodeError) (rest : List Byte) :
    checked i e rest = .ok (i, rest) := if_pos h

/-! ### Operations with operands -/

theorem decodeOp_encode_advance (n : Stride) (rest : List Byte) :
    decodeOp (encode (.advance n) ++ rest) = .ok (.advance n, rest) := by
  simp [encode, decodeOp]

theorem decodeOp_encode_readU16Le {buf : List Byte} {offset : Nat} (h : (Instr.readU16Le buf offset).wellFormed = true)
    (rest : List Byte) : decodeOp (encode (.readU16Le buf offset) ++ rest) = .ok (.readU16Le buf offset, rest) := by
  obtain ⟨hbuf, ho⟩ : isFrameLen buf = true ∧ offset + 2 ≤ buf.length := by simpa [Instr.wellFormed] using h
  have hsplit := splitFrameOperand_append hbuf (BitVec.ofNat 8 offset) rest
  rw [toNat_offsetByte hbuf ho] at hsplit
  simp [encode, decodeOp, hsplit, checked_of_wellFormed h]

theorem decodeOp_encode_decodeSigned (raw : U16) (rest : List Byte) :
    decodeOp (encode (.decodeSigned raw) ++ rest) = .ok (.decodeSigned raw, rest) := by
  simp [encode, decodeOp, splitBytes_append]

theorem decodeOp_encode_toMetres {mm : Int} (h : (Instr.toMetres mm).wellFormed = true) (rest : List Byte) :
    decodeOp (encode (.toMetres mm) ++ rest) = .ok (.toMetres mm, rest) := by
  simp [encode, decodeOp, splitBytes_append, toInt_leValue_int32Bytes h]

theorem decodeOp_encode_toMps {cm : Int} (h : (Instr.toMps cm).wellFormed = true) (rest : List Byte) :
    decodeOp (encode (.toMps cm) ++ rest) = .ok (.toMps cm, rest) := by
  simp [encode, decodeOp, splitBytes_append, toInt_leValue_int32Bytes h]

theorem decodeOp_encode_decodeBlock {f : List Byte} {j : TargetIdx} (h : (Instr.decodeBlock f j).wellFormed = true)
    (rest : List Byte) : decodeOp (encode (.decodeBlock f j) ++ rest) = .ok (.decodeBlock f j, rest) := by
  obtain ⟨hf, -⟩ : isFrameLen f = true ∧ j.blkOff + Config.BLK_USED ≤ f.length := by simpa [Instr.wellFormed] using h
  simp [encode, decodeOp, splitFrameOperand_append hf, checked_of_wellFormed h]

theorem decodeOp_encode_extractMulti {f : List Byte} (h : (Instr.extractMulti f).wellFormed = true) (rest : List Byte) :
    decodeOp (encode (.extractMulti f) ++ rest) = .ok (.extractMulti f, rest) := by
  have hf : f.length = Config.LEN_MULTI := by simpa [Instr.wellFormed] using h
  simp [encode, decodeOp, splitBytes_append hf]

theorem decodeOp_encode_extractSingle {f : List Byte} (h : (Instr.extractSingle f).wellFormed = true) (rest : List Byte) :
    decodeOp (encode (.extractSingle f) ++ rest) = .ok (.extractSingle f, rest) := by
  have hf : f.length = Config.LEN_SINGLE := by simpa [Instr.wellFormed] using h
  simp [encode, decodeOp, splitBytes_append hf]

/-! ### The round trip -/

/-- An operation is read back from the front of any bytes that begin with its word; one without operands by its op code
alone. -/
theorem decodeOp_encode_append {i : Instr} (hwf : i.wellFormed = true) (hop : i.isOp = true) (rest : List Byte) :
    decodeOp (encode i ++ rest) = .ok (i, rest) := by
  cases i with
  | multi b1 b2 b3 => cases hop
  | single b => cases hop
  | corruptByte => cases hop
  | garbageByte b => cases hop
  | reset => rfl
  | ingest => rfl
  | pendingUnread => rfl
  | enforceCapacity => rfl
  | compact => rfl
  | advance n => exact decodeOp_encode_advance n rest
  | syncClassify => rfl
  | readU16Le buf offset => exact decodeOp_encode_readU16Le hwf rest
  | decodeSigned raw => exact decodeOp_encode_decodeSigned raw rest
  | toMetres mm => exact decodeOp_encode_toMetres hwf rest
  | toMps cm => exact decodeOp_encode_toMps hwf rest
  | decodeBlock f j => exact decodeOp_encode_decodeBlock hwf rest
  | extractMulti f => exact decodeOp_encode_extractMulti hwf rest
  | extractSingle f => exact decodeOp_encode_extractSingle hwf rest
  | decodeCycle => rfl

/-- A word that the operation decoder reads to its end holds that operation. -/
theorem decodeWord_of_decodeOp {bs : List Byte} {i : Instr} (h : decodeOp bs = .ok (i, [])) : decodeWord bs = .ok i := by
  simp [decodeWord, h]

/-- Settles O2: the word alone is the case of an empty rest. -/
theorem operationWordsRoundTrip : Obligations.OperationWordsRoundTrip := by
  intro i hwf hop
  have hword : decodeOp (encode i) = .ok (i, []) := by simpa using decodeOp_encode_append hwf hop []
  exact ⟨decodeWord_of_decodeOp hword, decodeOp_encode_append hwf hop⟩

end Sys2Proof
end

section
/-! PROOFS. What an operation and a step can do, said once: the step by what stands at the front of the agenda, and a rule
that carries a relation between states over every operation. -/

namespace Sys2Proof.Machine

/-! ### One step, by the front of the agenda (log entry 7) -/

theorem step_of_idle {s : State} (h : s.agenda = []) : step s = .next s := by simp [step, fetch, h]

theorem step_of_word {s : State} {bytes : List Byte} {rest : List Task} {i : Instr} (h : s.agenda = .word bytes :: rest)
    (hd : decodeWord bytes = .ok i) : step s = exec i { s with agenda := rest } := by
  simp [step, fetch, h, hd]

theorem step_of_undecodable {s : State} {bytes : List Byte} {rest : List Task} {e : DecodeError}
    (h : s.agenda = .word bytes :: rest) (hd : decodeWord bytes = .error e) : step s = .refused (.undecodable e) := by
  simp [step, fetch, h, hd]

theorem step_of_clearTargets {s : State} {rest : List Task} (h : s.agenda = .clearTargets :: rest) :
    step s = .next (clearTargets { s with agenda := rest }) := by
  simp [step, fetch, h]

theorem step_of_drain_row {s : State} {rest : List Task} {i : Instr} (h : s.agenda = .drain :: rest)
    (hd : decodeFrame s.view = .ok i) : step s = exec i s := by
  simp [step, fetch, h, hd]

theorem step_of_drain_wait {s : State} {rest : List Task} {e : DecodeError} (h : s.agenda = .drain :: rest)
    (hd : decodeFrame s.view = .error e) : step s = .next (recordEvent .incomplete { s with agenda := rest }) := by
  simp [step, fetch, h, hd]

theorem step_of_sample {s : State} {rest : List Task} (h : s.agenda = .sample :: rest) :
    step s = .next (sampleDuration (samplePending { s with agenda := rest })) := by
  simp [step, fetch, h]

/-- Settles O9: the two ways a drain loop's fetch comes out. -/
theorem stepRunsRowAtCursor : Obligations.StepRunsRowAtCursor :=
  fun _ _ h => ⟨fun _ hd => step_of_drain_row h hd, step_of_drain_wait h⟩

/-! ### The extractor's operations that return a value -/

theorem execReadU16Le_eq_next {buf : List Byte} {offset : Nat} {s t : State} (h : execReadU16Le buf offset s = .next t) :
    t = returnValue (.u16 (readU16LE buf offset)) s := by
  unfold execReadU16Le at h
  split at h <;> cases h
  rfl

theorem execDecodeBlock_eq_next {f : List Byte} {j : TargetIdx} {s t : State} (h : execDecodeBlock f j s = .next t) :
    ∃ x, t = returnValue (.block x) (noteAbsent j x s) := by
  unfold execDecodeBlock at h
  split at h <;> cases h
  exact ⟨_, rfl⟩

theorem execExtractMulti_eq_next {f : List Byte} {s t : State} (h : execExtractMulti f s = .next t) :
    ∃ ts : Slots,
      t = returnValue (.blocks ts) (noteAbsent .t3 ts.s3 (noteAbsent .t2 ts.s2 (noteAbsent .t1 ts.s1 s))) := by
  unfold execExtractMulti at h
  split at h <;> cases h
  exact ⟨_, rfl⟩

theorem execExtractSingle_eq_next {f : List Byte} {s t : State} (h : execExtractSingle f s = .next t) :
    ∃ x, t = returnValue (.block x) (noteAbsent .t1 x s) := by
  unfold execExtractSingle at h
  split at h
  · split at h <;> cases h
    exact ⟨_, rfl⟩
  · cases h

/-! ### Relations that hold across every operation -/

/-- A reflexive and transitive relation between states that every operation but RESET, and every inner step of a cycle,
brings about. -/
structure HoldsAcrossOps (R : State → State → Prop) : Prop where
  refl : ∀ s, R s s
  trans : ∀ {s m t}, R s m → R m t → R s t
  value : ∀ r s, R s (returnValue r s)
  noTarget : ∀ j s, R s (recordEvent (.noTarget j) s)
  wait : ∀ s, R s (recordEvent .incomplete s)
  ingest : ∀ {s t}, ingest s = .next t → R s t
  enforceCapacity : ∀ {max s t}, enforceCapacity max s = .next t → R s t
  compact : ∀ s, R s (compact s)
  advance : ∀ {n s t}, advanceBy n s = .next t → R s t
  skip : ∀ {counted s t}, applySkip counted s = .next t → R s t
  frame : ∀ {kind f s t}, deliverFrame kind f s = .next t → R s t
  clear : ∀ s, R s (clearTargets s)
  sample : ∀ s, R s (sampleDuration (samplePending s))

namespace HoldsAcrossOps

variable {R : State → State → Prop} {s t : State}

theorem noteAbsent (h : HoldsAcrossOps R) (j : TargetIdx) (x : Slot) (s : State) : R s (noteAbsent j x s) := by
  cases x with
  | none => exact h.noTarget j s
  | some _ => exact h.refl s

theorem drain (h : HoldsAcrossOps R) (hd : drain s = .next t) : R s t :=
  drain_relation (fun s _ => h.wait s) (fun _ _ _ _ _ hm ih => h.trans (h.skip hm) ih)
    (fun _ _ _ _ _ hm ih => h.trans (h.frame hm) ih) hd

theorem decodeCycle (h : HoldsAcrossOps R) (hd : decodeCycle s = .next t) : R s t := by
  obtain ⟨a, b, c, ha, hb, hc, rfl⟩ := decodeCycle_eq_next.1 hd
  have toLoop : R s (clearTargets b) := h.trans (h.ingest ha) (h.trans (h.enforceCapacity hb) (h.clear b))
  exact h.trans (h.trans toLoop (h.drain hc)) (h.trans (h.compact c) (h.sample _))

/-- The rule: such a relation holds across every instruction but RESET. -/
theorem exec (h : HoldsAcrossOps R) {i : Instr} (hi : i ≠ .reset) (he : exec i s = .next t) : R s t := by
  cases i with
  | multi b1 b2 b3 => exact h.frame he
  | single b => exact h.frame he
  | corruptByte => exact h.skip he
  | garbageByte b => exact h.skip he
  | reset => exact absurd rfl hi
  | ingest => exact h.ingest he
  | pendingUnread => cases he; exact h.value _ s
  | enforceCapacity => exact h.enforceCapacity he
  | compact => cases he; exact h.compact s
  | advance n => exact h.advance he
  | syncClassify => cases he; exact h.value _ s
  | readU16Le buf offset => rw [execReadU16Le_eq_next he]; exact h.value _ s
  | decodeSigned raw => cases he; exact h.value _ s
  | toMetres mm => cases he; exact h.value _ s
  | toMps cm => cases he; exact h.value _ s
  | decodeBlock f j =>
    obtain ⟨x, rfl⟩ := execDecodeBlock_eq_next he
    exact h.trans (h.noteAbsent j x s) (h.value _ _)
  | extractMulti f =>
    obtain ⟨ts, rfl⟩ := execExtractMulti_eq_next he
    have noted := h.trans (h.noteAbsent .t1 ts.s1 s) (h.noteAbsent .t2 ts.s2 _)
    exact h.trans (h.trans noted (h.noteAbsent .t3 ts.s3 _)) (h.value _ _)
  | extractSingle f =>
    obtain ⟨x, rfl⟩ := execExtractSingle_eq_next he
    exact h.trans (h.noteAbsent .t1 x s) (h.value _ _)
  | decodeCycle => exact h.decodeCycle he

end HoldsAcrossOps

end Sys2Proof.Machine
end

section
/-! PROOFS. FRAMES_PARSED never falls, and FRAMES_BAD counts the CorruptHeader and Overflow events (10_state.md R15;
60_exceptions.md R161). -/

namespace Sys2Proof.Machine

/-- The events that FRAMES_BAD counts. -/
def Event.countsBad : Event → Bool
  | .corruptHeader => true
  | .overflow _ => true
  | _ => false

/-- From `s` to `t` FRAMES_PARSED does not fall, the history grows at its front, and FRAMES_BAD counts what it grew by. -/
def CountsEvents (s t : State) : Prop :=
  s.framesParsed ≤ t.framesParsed ∧
    ∃ new, t.events = new ++ s.events ∧ t.framesBad = s.framesBad + new.countP Event.countsBad

namespace CountsEvents

variable {s m t : State}

theorem of_silent (hp : s.framesParsed ≤ t.framesParsed) (he : t.events = s.events) (hb : t.framesBad = s.framesBad) :
    CountsEvents s t :=
  ⟨hp, [], he, hb⟩

theorem of_event {e : Event} (hp : s.framesParsed ≤ t.framesParsed) (he : t.events = e :: s.events)
    (hb : t.framesBad = s.framesBad + if e.countsBad then 1 else 0) : CountsEvents s t :=
  ⟨hp, [e], he, by simpa [List.countP_cons] using hb⟩

theorem trans (h : CountsEvents s m) (h' : CountsEvents m t) : CountsEvents s t := by
  obtain ⟨hp, new, he, hb⟩ := h
  obtain ⟨hp', new', he', hb'⟩ := h'
  refine ⟨hp.trans hp', new' ++ new, by simp [he', he], ?_⟩
  rw [List.countP_append]
  omega

theorem recordEvent_of_not_countsBad {e : Event} (h : e.countsBad = false) (s : State) :
    CountsEvents s (recordEvent e s) :=
  of_event (e := e) le_rfl rfl (by simp [h])

theorem storeTarget (j : TargetIdx) (x : Slot) (s : State) : CountsEvents s (storeTarget j x s) := by
  cases x with
  | none => exact recordEvent_of_not_countsBad rfl s
  | some r => exact of_silent (by simp) (by simp [Machine.storeTarget]) (by simp)

theorem extractInto {kind : FrameKind} {f : List Byte} (h : extractInto kind f s = .next t) : CountsEvents s t := by
  cases kind with
  | multi =>
    cases h
    exact (storeTarget ..).trans ((storeTarget ..).trans (storeTarget ..))
  | single =>
    simp only [Machine.extractInto] at h
    split at h <;> cases h
    exact storeTarget ..

theorem deliverFrame {kind : FrameKind} {f : List Byte} (h : deliverFrame kind f s = .next t) : CountsEvents s t := by
  obtain ⟨-, m, hm, -, rfl⟩ := deliverFrame_eq_next.1 h
  have advanced : CountsEvents s { s with cursor := s.cursor + kind.len } := of_silent le_rfl rfl rfl
  exact (advanced.trans (extractInto hm)).trans (of_silent (Nat.le_succ _) rfl rfl)

theorem enforceCapacity {max : Nat} (h : enforceCapacity max s = .next t) : CountsEvents s t := by
  obtain ⟨-, rfl⟩ | ⟨-, -, rfl⟩ := enforceCapacity_eq_next.1 h
  · exact of_silent le_rfl rfl rfl
  · exact of_event (e := .overflow (evicted max s)) le_rfl rfl rfl

theorem compact (s : State) : CountsEvents s (compact s) := by
  obtain ⟨-, -, h⟩ | ⟨-, h⟩ := compact_cases s <;> rw [h]
  · exact of_event (e := .compacted) le_rfl rfl rfl
  · exact of_silent le_rfl rfl rfl

theorem applySkip {counted : Bool} (h : applySkip counted s = .next t) : CountsEvents s t := by
  obtain ⟨-, h⟩ := applySkip_eq_next.1 h
  cases counted with
  | false =>
    obtain rfl : t = _ := by simpa using h
    exact of_event (e := .desync) le_rfl rfl rfl
  | true =>
    obtain ⟨-, rfl⟩ : _ ∧ t = _ := by simpa using h
    exact of_event (e := .corruptHeader) le_rfl rfl rfl

theorem holdsAcrossOps : HoldsAcrossOps CountsEvents where
  refl _ := of_silent le_rfl rfl rfl
  trans := trans
  value _ _ := of_silent le_rfl rfl rfl
  noTarget _ := recordEvent_of_not_countsBad rfl
  wait := recordEvent_of_not_countsBad rfl
  ingest h := by
    obtain ⟨-, rfl⟩ := ingest_eq_next.1 h
    exact of_silent le_rfl rfl rfl
  enforceCapacity := enforceCapacity
  compact := compact
  advance h := by
    obtain ⟨-, rfl⟩ := advanceBy_eq_next.1 h
    exact of_silent le_rfl rfl rfl
  skip := applySkip
  frame := deliverFrame
  clear _ := of_silent le_rfl rfl rfl
  sample _ := of_silent le_rfl rfl rfl

end CountsEvents

/-- Settles O55: the relation holds across every operation but RESET. -/
theorem countersCountEvents : Obligations.CountersCountEvents :=
  fun _ _ _ hi he => CountsEvents.holdsAcrossOps.exec hi he

end Sys2Proof.Machine
end

section
/-! PROOFS. The invariants of 10_state.md R23 over every step: first that NEAREST stays not negative and CURSOR within BUF,
then each operation, then the step. -/

namespace Sys2Proof.Machine

/-! ### Ranges and NEAREST are not negative (R127, R132) -/

/-- An irrational range is above 1.4 mm, and so above every error it is stored with. -/
theorem storedErrorBound_le_rangeApprox {n : Nat} (h : 2 ≤ n) : storedErrorBound ≤ rangeApprox n := by
  have hr : 1414213 ≤ isqrt (n * 10 ^ 12) := le_isqrt (by omega)
  have hr' : (1414213 : F) ≤ isqrt (n * 10 ^ 12) := by exact_mod_cast hr
  rw [storedErrorBound_eq, rangeApprox, le_div_iff₀ (by norm_num)]
  exact le_trans (by norm_num) hr'

theorem rangeM_nonneg (x y : Int) : 0 ≤ rangeM x y := by
  simp only [rangeM]
  split
  · positivity
  next hsq =>
    have h0 : normSq x y ≠ 0 := fun h => hsq (by rw [h]; exact congrArg (fun r => r * r) (isqrt_mul_self 0))
    have h1 : normSq x y ≠ 1 := fun h => hsq (by rw [h]; exact congrArg (fun r => r * r) (isqrt_mul_self 1))
    have hrange := storedErrorBound_le_rangeApprox (show 2 ≤ normSq x y by omega)
    have hbound : (0 : F) ≤ storedErrorBound := by norm_num [storedErrorBound_eq]
    have herr := (abs_le.1 (boundedError_abs_le hbound (Config.rangeError x y))).1
    linarith

theorem targetOf_range_nonneg {onRaw : Bool} {x y v : U16} {r : TargetRecord} (h : r ∈ targetOf onRaw x y v) :
    0 ≤ r.range_m := by
  unfold targetOf at h
  split at h <;> cases h
  exact rangeM_nonneg _ _

theorem extractSingle_range_nonneg {onRaw : Bool} {f : List Byte} {angle : InstallAngle} {t : Slot} {r : TargetRecord}
    (h : extractSingle onRaw f angle = .ok t) (hr : r ∈ t) : 0 ≤ r.range_m := by
  unfold extractSingle at h
  split at h
  · cases h
    cases hr
  next u hu =>
    cases angle <;> cases h
    cases hr
    exact targetOf_range_nonneg (r := u) hu

theorem nearer_nonneg {n r : F} (hn : 0 ≤ n) (hr : 0 ≤ r) : 0 ≤ nearer n r := by
  unfold nearer
  split <;> assumption

theorem storeTarget_nearest_nonneg {j : TargetIdx} {t : Slot} {s : State} (hs : 0 ≤ s.nearest)
    (ht : ∀ r ∈ t, 0 ≤ r.range_m) : 0 ≤ (storeTarget j t s).nearest := by
  cases t with
  | none => exact hs
  | some r => exact nearer_nonneg (by simpa using hs) (ht r rfl)

theorem extractInto_nearest_nonneg {kind : FrameKind} {f : List Byte} {s t : State} (h : extractInto kind f s = .next t)
    (hs : 0 ≤ s.nearest) : 0 ≤ t.nearest := by
  cases kind with
  | multi =>
    cases h
    have store (j) (o : Nat) {s : State} (hs : 0 ≤ s.nearest) {p : Bool} :
        0 ≤ (storeTarget j (decodeBlock p f o) s).nearest :=
      storeTarget_nearest_nonneg hs fun _ => targetOf_range_nonneg
    exact store _ _ (store _ _ (store _ _ hs))
  | single =>
    simp only [extractInto] at h
    split at h <;> cases h
    next ht => exact storeTarget_nearest_nonneg hs fun _ => extractSingle_range_nonneg ht

theorem deliverFrame_nearest_nonneg {kind : FrameKind} {f : List Byte} {s t : State}
    (h : deliverFrame kind f s = .next t) (hs : 0 ≤ s.nearest) : 0 ≤ t.nearest := by
  obtain ⟨-, m, hm, -, rfl⟩ := deliverFrame_eq_next.1 h
  simpa using extractInto_nearest_nonneg hm hs

/-! ### CURSOR stays within BUF (R77) -/

theorem ingest_cursor_le {s t : State} (h : ingest s = .next t) (hs : s.cursor ≤ s.len) : t.cursor ≤ t.len := by
  obtain ⟨-, rfl⟩ := ingest_eq_next.1 h
  simp only [State.len, List.length_append] at *
  omega

theorem enforceCapacity_cursor_le {max : Nat} {s t : State} (h : enforceCapacity max s = .next t)
    (hs : s.cursor ≤ s.len) : t.cursor ≤ t.len := by
  obtain ⟨-, rfl⟩ | ⟨-, -, rfl⟩ := enforceCapacity_eq_next.1 h
  · exact hs
  · simp only [State.len, List.length_drop] at *
    omega

theorem compact_cursor_le {s : State} (hs : s.cursor ≤ s.len) : (compact s).cursor ≤ (compact s).len := by
  obtain ⟨-, -, hc⟩ | ⟨-, hc⟩ := compact_cases s <;> rw [hc]
  · exact Nat.zero_le _
  · exact hs

/-! ### Each operation keeps the invariants (R23, R77) -/

namespace State.Inv

variable {s t : State}

/-- The invariants speak of six fields only. -/
theorem congr (h : s.Inv) (hbuf : t.buf = s.buf) (hcursor : t.cursor = s.cursor) (hparams : t.params = s.params)
    (hparsed : t.framesParsed = s.framesParsed) (hbad : t.framesBad = s.framesBad) (hnearest : t.nearest = s.nearest) :
    t.Inv := by
  obtain ⟨h1, h2, h3, h4, h5, h6⟩ := h
  constructor <;> simp_all [State.len]

theorem returnValue (h : s.Inv) (r : OpResult) : (returnValue r s).Inv := h.congr rfl rfl rfl rfl rfl rfl

theorem recordEvent (h : s.Inv) (e : Event) : (recordEvent e s).Inv := h.congr rfl rfl rfl rfl rfl rfl

theorem withAgenda (h : s.Inv) (rest : List Task) : ({ s with agenda := rest } : State).Inv :=
  h.congr rfl rfl rfl rfl rfl rfl

theorem clearTargets (h : s.Inv) : (clearTargets s).Inv := { h with nearest_nonneg := le_rfl }

theorem sampled (h : s.Inv) : (sampleDuration (samplePending s)).Inv := h.congr rfl rfl rfl rfl rfl rfl

theorem advanceBy (h : s.Inv) {n : Nat} (ha : advanceBy n s = .next t) : t.Inv := by
  obtain ⟨hn, rfl⟩ := advanceBy_eq_next.1 ha
  have hc := h.cursor_le_len
  exact { h with cursor_le_len := by simp only [State.unread, State.len] at *; omega }

theorem ingest (h : s.Inv) (hi : ingest s = .next t) : t.Inv := by
  have hcursor := ingest_cursor_le hi h.cursor_le_len
  have hwf := memory_wf_ingest hi
  obtain ⟨-, rfl⟩ := ingest_eq_next.1 hi
  exact { h with cursor_le_len := hcursor, memory_wf := hwf }

theorem enforceCapacity (h : s.Inv) {max : Nat} (he : enforceCapacity max s = .next t) : t.Inv := by
  have hcursor := enforceCapacity_cursor_le he h.cursor_le_len
  have hwf := memory_wf_enforceCapacity he h.memory_wf
  obtain ⟨-, rfl⟩ | ⟨-, hcounts, rfl⟩ := enforceCapacity_eq_next.1 he
  · exact h
  · exact { h with cursor_le_len := hcursor, memory_wf := hwf, bad_counts := hcounts }

theorem compact (h : s.Inv) : (compact s).Inv where
  cursor_le_len := compact_cursor_le h.cursor_le_len
  memory_wf := memory_wf_compact h.memory_wf
  params_wf := by simpa using h.params_wf
  parsed_counts := by simpa using h.parsed_counts
  bad_counts := by simpa using h.bad_counts
  nearest_nonneg := by simpa using h.nearest_nonneg

theorem applySkip (h : s.Inv) {counted : Bool} (ha : applySkip counted s = .next t) : t.Inv := by
  obtain ⟨hu, ha⟩ := applySkip_eq_next.1 ha
  have hadv : ({ s with cursor := s.cursor + 1 } : State).Inv := h.advanceBy (advanceBy_of_le hu)
  cases counted with
  | false =>
    obtain rfl : t = _ := by simpa using ha
    exact hadv.recordEvent .desync
  | true =>
    obtain ⟨hcounts, rfl⟩ : _ ∧ t = _ := by simpa using ha
    exact { hadv with bad_counts := hcounts }

theorem deliverFrame (h : s.Inv) {kind : FrameKind} {f : List Byte} (hd : deliverFrame kind f s = .next t) :
    t.Inv := by
  have hnearest := deliverFrame_nearest_nonneg hd h.nearest_nonneg
  obtain ⟨hu, m, hm, hcounts, -⟩ := deliverFrame_eq_next.1 hd
  have hadv : ({ s with cursor := s.cursor + kind.len } : State).Inv := h.advanceBy (advanceBy_of_le hu)
  rw [extractInto_keeps hm] at hcounts
  rw [deliverFrame_keeps hd]
  exact { hadv with
    parsed_counts := hcounts
    nearest_nonneg := hnearest }

theorem holdsAcrossOps : HoldsAcrossOps fun s t => s.Inv → t.Inv where
  refl _ := id
  trans h h' := h' ∘ h
  value r _ h := h.returnValue r
  noTarget j _ h := h.recordEvent (.noTarget j)
  wait _ h := h.recordEvent .incomplete
  ingest hi h := h.ingest hi
  enforceCapacity he h := h.enforceCapacity he
  compact _ h := h.compact
  advance ha h := h.advanceBy ha
  skip ha h := h.applySkip ha
  frame hd h := h.deliverFrame hd
  clear _ h := h.clearTargets
  sample _ h := h.sampled

end State.Inv

/-! ### RESET and the step -/

theorem fits_zero (p : Params) : p.fits 0 = true := by
  cases h : p.physCap <;> simp [Params.fits, h]

theorem counts_zero (p : Params) : p.counts 0 = true := by
  cases h : p.ctrW <;> simp [Params.counts, h]

/-- RESET needs of the state before it only that its parameters are as R5 allows them (R180). -/
theorem resetArchitectural_inv {s : State} (h : s.params.wf = true) : (resetArchitectural s).Inv where
  cursor_le_len := le_rfl
  memory_wf := (memory_wf_iff _ _).2 (fits_zero _)
  params_wf := h
  parsed_counts := counts_zero _
  bad_counts := counts_zero _
  nearest_nonneg := le_rfl

theorem State.Inv.exec {s t : State} (h : s.Inv) {i : Instr} (he : exec i s = .next t) : t.Inv := by
  by_cases hi : i = .reset
  · subst hi
    cases he
    exact resetArchitectural_inv h.params_wf
  · exact holdsAcrossOps.exec hi he h

/-- Settles O51: by the task at the front of the agenda, each an instruction or an inner step that keeps the invariants. -/
theorem stepKeepsTheInvariants : Obligations.StepKeepsTheInvariants := by
  intro s t h hstep
  match hag : s.agenda with
  | [] =>
    cases (step_of_idle hag).symm.trans hstep
    exact h
  | .word bytes :: rest =>
    cases hd : decodeWord bytes with
    | ok i => exact (h.withAgenda rest).exec ((step_of_word hag hd).symm.trans hstep)
    | error e => cases (step_of_undecodable hag hd).symm.trans hstep
  | .clearTargets :: rest =>
    cases (step_of_clearTargets hag).symm.trans hstep
    exact (h.withAgenda rest).clearTargets
  | .drain :: rest =>
    cases hd : decodeFrame s.view with
    | ok i => exact h.exec ((step_of_drain_row hag hd).symm.trans hstep)
    | error e =>
      cases (step_of_drain_wait hag hd).symm.trans hstep
      exact (h.withAgenda rest).recordEvent .incomplete
  | .sample :: rest =>
    cases (step_of_sample hag).symm.trans hstep
    exact (h.withAgenda rest).sampled

end Sys2Proof.Machine
end

section
/-! PROOFS. The bounds of a cycle boundary and the host's agenda along a run (10_state.md R23 (iv), (v);
40_buffer_manager.md R78; 60_exceptions.md R171). -/

namespace Sys2Proof.Machine

/-! ### The end of a cycle -/

/-- COMPACT leaves no more consumed bytes than unread ones (R73). -/
theorem compact_cursor_le_unread {s : State} (h : s.cursor ≤ s.len) : (compact s).cursor ≤ (compact s).unread := by
  obtain ⟨-, -, hc⟩ | ⟨hs, hc⟩ := compact_cases s <;> rw [hc]
  · exact Nat.zero_le _
  · simp only [State.unread]
    omega

theorem pendingUnread_toNat {s : State} (h : s.cursor ≤ s.len) (hu : s.unread ≤ 29) :
    (pendingUnread s).toNat = s.len - s.cursor := by
  simp only [State.unread] at hu
  rw [pendingUnread, if_pos h, BitVec.toNat_ofNat]
  omega

/-- A cycle ends at a cycle boundary (R78). -/
theorem decodeCycle_boundary {s t : State} (hs : s.cursor ≤ s.len) (h : decodeCycle s = .next t) : t.Boundary := by
  obtain ⟨a, b, c, ha, hb, hc, rfl⟩ := decodeCycle_eq_next.1 h
  have hkept : b.cursor ≤ b.len := enforceCapacity_cursor_le hb (ingest_cursor_le ha hs)
  have hcursor : c.cursor ≤ c.len := drain_cursor_le hc hkept
  have hunread : (compact c).unread ≤ 29 :=
    unread_compact c ▸ unread_of_verdict_needMore (drain_ends_waiting hc)
  have hconsumed := compact_cursor_le_unread hcursor
  have hwithin := compact_cursor_le hcursor
  have hlen : (compact c).len = (compact c).unread + (compact c).cursor := (Nat.sub_add_cancel hwithin).symm
  exact {
    unread_le := hunread
    cursor_le := hconsumed.trans hunread
    len_le := show (compact c).len ≤ 58 by omega
    pending := pendingUnread_toNat hwithin hunread }

theorem decodeCycle_agenda {s t : State} (h : decodeCycle s = .next t) : t.agenda = s.agenda := by
  obtain ⟨a, b, c, ha, hb, hc, rfl⟩ := decodeCycle_eq_next.1 h
  obtain ⟨-, -, -, -, -, -, -, hagenda⟩ := drain_keeps hc
  obtain ⟨-, rfl⟩ := ingest_eq_next.1 ha
  obtain ⟨-, rfl⟩ | ⟨-, -, rfl⟩ := enforceCapacity_eq_next.1 hb <;> simpa using hagenda

theorem resetArchitectural_boundary (s : State) : (resetArchitectural s).Boundary where
  unread_le := Nat.zero_le _
  cursor_le := Nat.zero_le _
  len_le := Nat.zero_le _
  pending := rfl

/-- The bounds speak of three fields only. -/
theorem State.Boundary.congr {s t : State} (h : s.Boundary) (hbuf : t.buf = s.buf) (hcursor : t.cursor = s.cursor)
    (hpending : t.bytesPending = s.bytesPending) : t.Boundary := by
  obtain ⟨h1, h2, h3, h4⟩ := h
  constructor <;> simp_all [State.unread, State.len]

/-! ### What the host finds between cycles -/

/-- The invariants, the bounds of a cycle boundary, and an agenda of RESET and DECODE_CYCLE words. -/
structure HostState (s : State) : Prop where
  inv : s.Inv
  boundary : s.Boundary
  hostAgenda : s.hostAgenda = true

namespace HostState

variable {s t : State}

theorem hostAgenda_tail {task : Task} {rest : List Task} (h : HostState s) (hag : s.agenda = task :: rest) :
    task.hostIssued = true ∧ rest.all Task.hostIssued = true := by
  have hall := h.hostAgenda
  rw [State.hostAgenda, hag, List.all_cons, Bool.and_eq_true] at hall
  exact hall

theorem resetState : HostState State.reset where
  inv := resetArchitectural_inv (s := State.reset) rfl
  boundary := resetArchitectural_boundary State.reset
  hostAgenda := rfl

/-- The two words a host may issue, and that they decode (R8, R150). -/
theorem decodeWord_of_hostIssued {bytes : List Byte} (h : (Task.word bytes).hostIssued = true) :
    decodeWord bytes = .ok .reset ∨ decodeWord bytes = .ok .decodeCycle := by
  obtain rfl | rfl : bytes = encode .reset ∨ bytes = encode .decodeCycle := by simpa [Task.hostIssued] using h
  · exact .inl (decodeWord_of_decodeOp rfl)
  · exact .inr (decodeWord_of_decodeOp rfl)

/-- A step finds nothing to run, RESET or DECODE_CYCLE (R150). -/
theorem step (h : HostState s) (hstep : step s = .next t) : HostState t := by
  have inv := stepKeepsTheInvariants s t h.inv hstep
  match hag : s.agenda with
  | [] =>
    cases (step_of_idle hag).symm.trans hstep
    exact h
  | .word bytes :: rest =>
    obtain ⟨hissued, hrest⟩ := h.hostAgenda_tail hag
    obtain hd | hd := decodeWord_of_hostIssued hissued
    · cases (step_of_word hag hd).symm.trans hstep
      exact ⟨inv, resetArchitectural_boundary _, hrest⟩
    · have hcycle : decodeCycle { s with agenda := rest } = .next t := (step_of_word hag hd).symm.trans hstep
      refine ⟨inv, decodeCycle_boundary (h.inv.withAgenda rest).cursor_le_len hcycle, ?_⟩
      rw [State.hostAgenda, decodeCycle_agenda hcycle]
      exact hrest
  | .clearTargets :: _ => cases (h.hostAgenda_tail hag).1
  | .drain :: _ => cases (h.hostAgenda_tail hag).1
  | .sample :: _ => cases (h.hostAgenda_tail hag).1

theorem deliver (h : HostState s) (bytes : List Byte) : HostState (s.deliver bytes) :=
  ⟨h.inv.congr rfl rfl rfl rfl rfl rfl, h.boundary.congr rfl rfl rfl, h.hostAgenda⟩

theorem setInstallOffset (h : HostState s) (angle : InstallAngle) : HostState (s.setInstallOffset angle) :=
  ⟨h.inv.congr rfl rfl rfl rfl rfl rfl, h.boundary.congr rfl rfl rfl, h.hostAgenda⟩

theorem issue (h : HostState s) {i : Instr} (hi : (Task.word (encode i)).hostIssued = true) : HostState (s.issue i) where
  inv := h.inv.congr rfl rfl rfl rfl rfl rfl
  boundary := h.boundary.congr rfl rfl rfl
  hostAgenda := by
    rw [State.hostAgenda, issue_agenda, List.all_append, Bool.and_eq_true]
    exact ⟨h.hostAgenda, by simp [hi]⟩

theorem of_reachable (h : Reachable s) : HostState s := by
  induction h with
  | start => exact resetState
  | step _ hstep ih => exact ih.step hstep
  | deliver bytes _ ih => exact ih.deliver bytes
  | angle a _ ih => exact ih.setInstallOffset a
  | reset _ ih => exact ih.issue rfl
  | cycle _ ih => exact ih.issue rfl

end HostState

/-- Settles O52: one step, and by induction every reachable state. -/
theorem hostRunStaysWithinBounds : Obligations.HostRunStaysWithinBounds := by
  constructor
  · intro s t hinv hboundary hagenda hstep
    obtain ⟨hinv', hboundary', hagenda'⟩ := HostState.step ⟨hinv, hboundary, hagenda⟩ hstep
    exact ⟨hinv', hboundary', hagenda'⟩
  · intro s hreach
    obtain ⟨hinv, hboundary, hagenda⟩ := HostState.of_reachable hreach
    exact ⟨hinv, hboundary, hagenda⟩

end Sys2Proof.Machine
end

section
/-! PROOFS. The stream of bytes still to be consumed, and who changes the buffer, the cursor and RX (20_memory.md R31, R39,
R43, R44): what DropFront renumbers, what it is to consume bytes, the stream over each operation and then every instruction,
and the instructions that touch nothing of the buffer. Last, the operation word that a step runs (R40). -/

namespace Sys2Proof.Machine

/-! ### Renumbering (R31, R75) -/

theorem readByte_dropFront (d i : Nat) (s : State) : (dropFront d s).readByte i = s.readByte (d + i) := by
  simp [State.readByte]

/-- Settles O22: one lemma for each thing DropFront moves or keeps. -/
theorem dropFrontRenumbers : Obligations.DropFrontRenumbers :=
  fun s d hd _ => ⟨fun i => readByte_dropFront d i s, len_dropFront d s, dropFront_cursor d s, view_dropFront hd⟩

/-! ### Consuming bytes (R43, R74) -/

/-- From `s` to `t` exactly `n` unread bytes are consumed: CURSOR passes over them, and BUF and RX stay as they were. -/
structure Consumes (n : Nat) (s t : State) : Prop where
  le_unread : n ≤ s.unread
  buf : t.buf = s.buf
  rx : t.rx = s.rx
  cursor : t.cursor = s.cursor + n

namespace Consumes

variable {n : Nat} {s t : State}

theorem readByte (h : Consumes n s t) (a : Nat) : t.readByte a = s.readByte a := by
  simp [State.readByte, h.buf]

theorem cursor_le (h : Consumes n s t) (hs : s.cursor ≤ s.len) : t.cursor ≤ t.len := by
  have hn := h.le_unread
  simp only [State.unread, State.len, h.buf, h.cursor] at *
  omega

/-- What is consumed is the front of the stream. -/
theorem pendingStream (h : Consumes n s t) : t.pendingStream = s.pendingStream.drop n := by
  have hview : t.view = s.view.drop n := by simp [State.view, h.buf, h.cursor]
  have hn : n ≤ s.view.length := unread_eq_view_length s ▸ h.le_unread
  rw [State.pendingStream, State.pendingStream, hview, h.rx, List.drop_append_of_le_length hn]

theorem advanceBy (h : advanceBy n s = .next t) : Consumes n s t := by
  obtain ⟨hn, rfl⟩ := advanceBy_eq_next.1 h
  exact ⟨hn, rfl, rfl, rfl⟩

theorem applySkip {counted : Bool} (h : applySkip counted s = .next t) : Consumes 1 s t := by
  obtain ⟨hu, h⟩ := applySkip_eq_next.1 h
  cases counted with
  | false =>
    obtain rfl : t = _ := by simpa using h
    exact ⟨hu, rfl, rfl, rfl⟩
  | true =>
    obtain ⟨-, rfl⟩ : _ ∧ t = _ := by simpa using h
    exact ⟨hu, rfl, rfl, rfl⟩

theorem deliverFrame {kind : FrameKind} {f : List Byte} (h : deliverFrame kind f s = .next t) :
    Consumes kind.len s t := by
  have hu := (deliverFrame_eq_next.1 h).1
  rw [deliverFrame_keeps h]
  exact ⟨hu, rfl, rfl, rfl⟩

/-- A row of the byte stream consumes the bytes that encode it (R50, R56). -/
theorem row {i : Instr} (hi : i.isOp = false) (he : exec i s = .next t) : Consumes (encode i).length s t := by
  cases i with
  | multi b1 b2 b3 => exact encode_multi_length b1 b2 b3 ▸ deliverFrame (kind := .multi) he
  | single b => exact encode_single_length b ▸ deliverFrame (kind := .single) he
  | corruptByte => exact applySkip he
  | garbageByte b => exact applySkip he
  | _ => cases hi

end Consumes

/-! ### The stream to be consumed (R44) -/

/-- INGEST moves RX behind the unread bytes. -/
theorem pendingStream_ingest {s t : State} (h : ingest s = .next t) (hs : s.cursor ≤ s.len) :
    t.pendingStream = s.pendingStream := by
  obtain ⟨-, rfl⟩ := ingest_eq_next.1 h
  simp [State.pendingStream, State.view, List.drop_append_of_le_length (show s.cursor ≤ s.buf.length from hs)]

theorem pendingStream_enforceCapacity {max : Nat} {s t : State} (h : enforceCapacity max s = .next t) :
    t.pendingStream = s.pendingStream := by
  obtain ⟨-, rfl⟩ | ⟨-, -, rfl⟩ := enforceCapacity_eq_next.1 h
  · rfl
  · exact congrArg (· ++ s.rx) (view_dropFront (evicted_le_cursor max s))

theorem pendingStream_compact (s : State) : (compact s).pendingStream = s.pendingStream := by
  simp [State.pendingStream, view_compact]

/-- From a state whose CURSOR lies within BUF, `t` is such a state too, and what it has to consume is an end part of the
stream of `s`. -/
def LosesOnlyFront (s t : State) : Prop :=
  s.cursor ≤ s.len → t.cursor ≤ t.len ∧ t.pendingStream <:+ s.pendingStream

namespace LosesOnlyFront

variable {s m t : State}

theorem trans (h : LosesOnlyFront s m) (h' : LosesOnlyFront m t) : LosesOnlyFront s t := by
  intro hs
  obtain ⟨hm, hsuffix⟩ := h hs
  obtain ⟨ht, hsuffix'⟩ := h' hm
  exact ⟨ht, hsuffix'.trans hsuffix⟩

/-- Where neither BUF nor CURSOR nor RX is written. -/
theorem of_untouched (hbuf : t.buf = s.buf) (hcursor : t.cursor = s.cursor) (hrx : t.rx = s.rx) :
    LosesOnlyFront s t := by
  intro hs
  simp_all [State.pendingStream, State.view, State.len]

theorem of_consumes {n : Nat} (h : Consumes n s t) : LosesOnlyFront s t :=
  fun hs => ⟨h.cursor_le hs, h.pendingStream ▸ List.drop_suffix n _⟩

theorem holdsAcrossOps : HoldsAcrossOps LosesOnlyFront where
  refl _ := of_untouched rfl rfl rfl
  trans := trans
  value _ _ := of_untouched rfl rfl rfl
  noTarget _ _ := of_untouched rfl rfl rfl
  wait _ := of_untouched rfl rfl rfl
  ingest h hs := ⟨ingest_cursor_le h hs, (pendingStream_ingest h hs).symm ▸ List.suffix_rfl⟩
  enforceCapacity h hs := ⟨enforceCapacity_cursor_le h hs, (pendingStream_enforceCapacity h).symm ▸ List.suffix_rfl⟩
  compact s hs := ⟨compact_cursor_le hs, (pendingStream_compact s).symm ▸ List.suffix_rfl⟩
  advance h := of_consumes (.advanceBy h)
  skip h := of_consumes (.applySkip h)
  frame h := of_consumes (.deliverFrame h)
  clear _ := of_untouched rfl rfl rfl
  sample _ := of_untouched rfl rfl rfl

end LosesOnlyFront

/-- Settles O53: every operation but RESET leaves an end part of the stream; the buffer operations leave all of it, and
ADVANCE and the rows say how much they consume. -/
theorem streamIsConserved : Obligations.StreamIsConserved := by
  intro s t i hi hs he
  obtain ⟨-, hsuffix⟩ := LosesOnlyFront.holdsAcrossOps.exec hi he hs
  refine ⟨⟨_, Nat.sub_le _ _, List.suffix_iff_eq_drop.1 hsuffix⟩, ?_, ?_, fun hrow => (Consumes.row hrow he).pendingStream⟩
  · rintro (rfl | rfl | rfl)
    · exact pendingStream_ingest he hs
    · exact pendingStream_enforceCapacity he
    · cases he
      exact pendingStream_compact s
  · rintro n rfl
    exact (Consumes.advanceBy he).pendingStream

/-! ### Ownership of the buffer (R39, R43) -/

/-- BUF, CURSOR and RX stand in `t` as in `s`. -/
structure SameBuffer (s t : State) : Prop where
  buf : t.buf = s.buf
  cursor : t.cursor = s.cursor
  rx : t.rx = s.rx

theorem SameBuffer.readByte {s t : State} (h : SameBuffer s t) (a : Nat) : t.readByte a = s.readByte a := by
  simp [State.readByte, h.buf]

/-- The operations from SYNC_CLASSIFY on, DECODE_CYCLE apart, own nothing of the buffer (R39). -/
theorem exec_sameBuffer {i : Instr} {s t : State} (hcode : i.opCode.all (6 ≤ ·) = true) (hop : i.isOp = true)
    (hcycle : i ≠ .decodeCycle) (he : exec i s = .next t) : SameBuffer s t := by
  cases i with
  | syncClassify => cases he; exact ⟨rfl, rfl, rfl⟩
  | readU16Le buf offset => rw [execReadU16Le_eq_next he]; exact ⟨rfl, rfl, rfl⟩
  | decodeSigned raw => cases he; exact ⟨rfl, rfl, rfl⟩
  | toMetres mm => cases he; exact ⟨rfl, rfl, rfl⟩
  | toMps cm => cases he; exact ⟨rfl, rfl, rfl⟩
  | decodeBlock f j =>
    obtain ⟨x, rfl⟩ := execDecodeBlock_eq_next he
    constructor <;> simp
  | extractMulti f =>
    obtain ⟨ts, rfl⟩ := execExtractMulti_eq_next he
    constructor <;> simp
  | extractSingle f =>
    obtain ⟨x, rfl⟩ := execExtractSingle_eq_next he
    constructor <;> simp
  | decodeCycle => exact absurd rfl hcycle
  | multi | single | corruptByte | garbageByte => cases hop
  | reset | ingest | pendingUnread | enforceCapacity | compact | advance => cases hcode

/-- INGEST writes behind the bytes already there (R70). -/
theorem readByte_ingest {s t : State} (h : ingest s = .next t) {a : Nat} (ha : a < s.len) :
    t.readByte a = s.readByte a := by
  obtain ⟨-, rfl⟩ := ingest_eq_next.1 h
  exact List.getElem?_append_left ha

/-- Settles O54: the operations that touch nothing, those that only consume, and INGEST. -/
theorem bufferOwnership : Obligations.BufferOwnership := by
  intro s t i he
  refine ⟨fun hcode hop hcycle a => ?_, ?_, ?_, ?_⟩
  · have h := exec_sameBuffer hcode hop hcycle he
    exact ⟨h.readByte a, h.cursor, h.rx⟩
  · rintro rfl a
    cases he
    exact ⟨rfl, rfl, rfl⟩
  · rintro (⟨n, rfl⟩ | hrow)
    · exact (Consumes.advanceBy he).readByte
    · exact (Consumes.row hrow he).readByte
  · rintro rfl a ha
    exact readByte_ingest he ha

/-! ### The operation word at the front of the agenda (R8, R40) -/

/-- Settles O8: the two ways the decoder of an operation word comes out. -/
theorem stepRunsOperationWord : Obligations.StepRunsOperationWord :=
  fun _ _ _ h => ⟨fun _ => step_of_word h, fun _ => step_of_undecodable h⟩

end Sys2Proof.Machine
end

section
/-! PROOFS. The circular store against the sequence it stands for (20_memory.md R45; 40_buffer_manager.md R75): the live bytes
stand in cells of their own, so that an append overwrites none of them, and a new HEAD only renumbers them. -/

namespace Sys2Proof.Machine.Ring

theorem wf_iff (r : Ring) :
    r.wf = true ↔ r.head < r.cap ∧ r.len ≤ r.cap ∧ r.cursor ≤ r.len ∧ cellsWf r.mem = true := by
  simp [wf, and_assoc]

/-! ### MemAppend -/

/-- The cell behind the live bytes is none of theirs. -/
theorem physIndex_ne {r : Ring} {i j : Nat} (hij : i < j) (hj : j < r.cap) : r.physIndex i ≠ r.physIndex j := by
  intro h
  have hmod : i ≡ j [MOD r.cap] := Nat.ModEq.add_left_cancel' r.head h
  exact absurd (hmod.eq_of_lt_of_lt (hij.trans hj) hj) hij.ne

/-- What MemAppend can do: below capacity the byte goes into the cell behind the live bytes. -/
theorem append_eq_some {r r' : Ring} {b : Byte} :
    r.append b = some r' ↔
      r.len < r.cap ∧ r' = { r with mem := writeCell r.mem (r.physIndex r.len) b, len := r.len + 1 } := by
  unfold append
  split <;> simp_all [eq_comm]

theorem append_eq_none {r : Ring} {b : Byte} (h : r.cap ≤ r.len) : r.append b = none := if_neg (Nat.not_lt.2 h)

/-- After an append the cell behind the live bytes reads as the new byte, and each live byte as before. -/
theorem byteAt_append {r r' : Ring} {b : Byte} (hmem : cellsWf r.mem = true) (h : r.append b = some r') {i : Nat}
    (hi : i ≤ r.len) : r'.byteAt i = if i = r.len then b else r.byteAt i := by
  obtain ⟨hroom, rfl⟩ := append_eq_some.1 h
  obtain ⟨hrising, -⟩ := Bool.and_eq_true_iff.1 hmem
  have hread : readCell (writeCell r.mem (r.physIndex r.len) b) (r.physIndex i) =
      if r.physIndex i = r.physIndex r.len then b else r.byteAt i := readCell_writeCell _ _ _ _ 0 hrising
  refine hread.trans ?_
  obtain rfl | hlt := hi.eq_or_lt
  · rw [if_pos rfl, if_pos rfl]
  · rw [if_neg (physIndex_ne hlt hroom), if_neg hlt.ne]

theorem toBuf_append {r r' : Ring} {b : Byte} (hmem : cellsWf r.mem = true) (h : r.append b = some r') :
    r'.toBuf = r.toBuf ++ [b] := by
  have hlen : r'.len = r.len + 1 := by
    obtain ⟨-, rfl⟩ := append_eq_some.1 h
    rfl
  have hlive : ∀ i ∈ List.range r.len, r'.byteAt i = r.byteAt i := by
    intro i hi
    have hlt := List.mem_range.1 hi
    rw [byteAt_append hmem h hlt.le, if_neg hlt.ne]
  have hnew : r'.byteAt r.len = b := by rw [byteAt_append hmem h le_rfl, if_pos rfl]
  calc r'.toBuf = (List.range r.len).map r'.byteAt ++ [r'.byteAt r.len] := by simp [toBuf, hlen, List.range_succ]
    _ = r.toBuf ++ [b] := by rw [List.map_congr_left hlive, hnew, toBuf]

theorem wf_append {r r' : Ring} {b : Byte} (hwf : r.wf = true) (h : r.append b = some r') : r'.wf = true := by
  obtain ⟨hhead, -, hcursor, hmem⟩ := (wf_iff r).1 hwf
  obtain ⟨hroom, rfl⟩ := append_eq_some.1 h
  exact (wf_iff _).2 ⟨hhead, hroom, hcursor.trans (Nat.le_succ _), cellsWf_writeCell hmem _ b⟩

/-- Settles O58: below capacity by the lemmas about an append that succeeds, and a full ring allows none. -/
theorem ringAppendRefines : Obligations.RingAppendRefines := by
  intro r b hwf
  refine ⟨fun hroom => ?_, append_eq_none⟩
  obtain ⟨-, -, -, hmem⟩ := (wf_iff r).1 hwf
  have h : r.append b = some _ := append_eq_some.2 ⟨hroom, rfl⟩
  exact ⟨_, h, wf_append hwf h, toBuf_append hmem h, rfl, rfl⟩

/-! ### DropFront -/

/-- Logical offset `i` after the drop stands where `d + i` stood before: no byte moves. -/
theorem physIndex_dropFront (r : Ring) (d i : Nat) : (r.dropFront d).physIndex i = r.physIndex (d + i) := by
  simp [physIndex, dropFront, Nat.add_assoc]

theorem toBuf_dropFront (r : Ring) (d : Nat) : (r.dropFront d).toBuf = r.toBuf.drop d := by
  have hbyte (i : Nat) : (r.dropFront d).byteAt i = r.byteAt (d + i) :=
    congrArg (readCell r.mem) (physIndex_dropFront r d i)
  have hlen : (r.dropFront d).len = r.len - d := rfl
  apply List.ext_getElem
  · simp [toBuf, hlen]
  · intro i _ _
    simp [toBuf, hbyte]

theorem wf_dropFront {r : Ring} (hwf : r.wf = true) (d : Nat) : (r.dropFront d).wf = true := by
  obtain ⟨hhead, hlen, hcursor, hmem⟩ := (wf_iff r).1 hwf
  have hhead' : (r.head + d) % r.cap < r.cap := Nat.mod_lt _ (Nat.zero_lt_of_lt hhead)
  exact (wf_iff _).2 ⟨hhead', (Nat.sub_le _ _).trans hlen, Nat.sub_le_sub_right hcursor d, hmem⟩

/-- Settles O59: HEAD, LEN and CURSOR move, the cells do not. -/
theorem ringDropFrontRefines : Obligations.RingDropFrontRefines :=
  fun r d hwf _ => ⟨wf_dropFront hwf d, toBuf_dropFront r d, rfl, rfl⟩

end Sys2Proof.Machine.Ring
end

section
/-! PROOFS. The byte stream's decoder against the frames' encodings and against the synchronizer (30_encoding.md R51, R52,
R56; 41_frame_synchronizer.md R91): the selection table a row at a time, then that a decoded row is the front of the unread
bytes, then the round trip, which is that front read back. -/

namespace Sys2Proof

/-! ### The selection table (R56) -/

section Selection

variable {w : List Byte}

theorem decodeFrame_of_multi (hU : 30 ≤ w.length) (hH : w.take 4 = [0xAA, 0xFF, 0x03, 0x00])
    (h28 : (w.drop 28).take 2 = [0x55, 0xCC]) :
    decodeFrame w = .ok (.multi (blockAt w 4) (blockAt w 12) (blockAt w 20)) :=
  if_pos ((multiRow_hits w).2 ⟨hU, hH, h28⟩)

theorem not_multiRow_hits (hM : ¬(30 ≤ w.length ∧ (w.drop 28).take 2 = [0x55, 0xCC])) : ¬multiRow.hits w = true :=
  fun h => hM (((multiRow_hits w).1 h).imp_right And.right)

theorem decodeFrame_of_single (hM : ¬(30 ≤ w.length ∧ (w.drop 28).take 2 = [0x55, 0xCC])) (hU : 14 ≤ w.length)
    (hH : w.take 4 = [0xAA, 0xFF, 0x03, 0x00]) (h12 : (w.drop 12).take 2 = [0x55, 0xCC]) :
    decodeFrame w = .ok (.single (blockAt w 4)) := by
  rw [decodeFrame, if_neg (not_multiRow_hits hM), if_pos ((singleRow_hits w).2 ⟨hU, hH, h12⟩)]

/-- A header followed by neither trailer where it would count is corrupt or still incomplete, by the unread count alone. -/
theorem decodeFrame_of_header (hM : ¬(30 ≤ w.length ∧ (w.drop 28).take 2 = [0x55, 0xCC]))
    (hS : ¬(14 ≤ w.length ∧ (w.drop 12).take 2 = [0x55, 0xCC])) (hH : w.take 4 = [0xAA, 0xFF, 0x03, 0x00]) :
    decodeFrame w = if 30 ≤ w.length then .ok .corruptByte else .error .needMore := by
  have hsingle : ¬singleRow.hits w = true := fun h => hS (((singleRow_hits w).1 h).imp_right And.right)
  rw [decodeFrame, if_neg (not_multiRow_hits hM), if_neg hsingle, if_pos ((headerAt0_iff w).2 hH)]

theorem decodeFrame_of_no_header (hH : w.take 4 ≠ [0xAA, 0xFF, 0x03, 0x00]) :
    decodeFrame w = if 14 ≤ w.length then .ok (.garbageByte (w.getD 0 0)) else .error .needMore := by
  have hmulti : ¬multiRow.hits w = true := fun h => hH ((multiRow_hits w).1 h).2.1
  have hsingle : ¬singleRow.hits w = true := fun h => hH ((singleRow_hits w).1 h).2.1
  rw [decodeFrame, if_neg hmulti, if_neg hsingle, if_neg (mt (headerAt0_iff w).1 hH)]

theorem decodeFrame_of_corrupt (hU : 30 ≤ w.length) (hH : w.take 4 = [0xAA, 0xFF, 0x03, 0x00])
    (h28 : (w.drop 28).take 2 ≠ [0x55, 0xCC]) (h12 : (w.drop 12).take 2 ≠ [0x55, 0xCC]) :
    decodeFrame w = .ok .corruptByte := by
  rw [decodeFrame_of_header (fun h => h28 h.2) (fun h => h12 h.2) hH, if_pos hU]

theorem decodeFrame_of_garbage (hU : 14 ≤ w.length) (hH : w.take 4 ≠ [0xAA, 0xFF, 0x03, 0x00]) :
    decodeFrame w = .ok (.garbageByte (w.getD 0 0)) := by
  rw [decodeFrame_of_no_header hH, if_pos hU]

theorem decodeFrame_of_incomplete (hU : w.length < 30) (hH : w.take 4 = [0xAA, 0xFF, 0x03, 0x00])
    (h12 : (w.drop 12).take 2 ≠ [0x55, 0xCC]) : decodeFrame w = .error .needMore := by
  rw [decodeFrame_of_header (fun h => Nat.not_le.2 hU h.1) (fun h => h12 h.2) hH, if_neg (Nat.not_le.2 hU)]

theorem decodeFrame_of_short (hU : w.length < 14) : decodeFrame w = .error .needMore := by
  by_cases hH : w.take 4 = [0xAA, 0xFF, 0x03, 0x00]
  · rw [decodeFrame_of_header (fun h => by omega) (fun h => by omega) hH, if_neg (by omega)]
  · rw [decodeFrame_of_no_header hH, if_neg (by omega)]

end Selection

/-- Settles O5: a lemma of the selection table for each of its rows. -/
theorem selectionTableRows : Obligations.SelectionTableRows := by
  intro w U H T28 T12
  refine ⟨?multi, ?single, ?corrupt, ?garbage, ?incomplete, decodeFrame_of_short⟩
  case multi => exact fun ⟨hU, hH, h28⟩ => ⟨_, _, _, decodeFrame_of_multi hU hH h28⟩
  case single =>
    exact fun ⟨hM, hU, hH, h12⟩ => ⟨_, decodeFrame_of_single (fun ⟨hU30, h28⟩ => hM ⟨hU30, hH, h28⟩) hU hH h12⟩
  case corrupt => exact fun ⟨hU, hH, h28, h12⟩ => decodeFrame_of_corrupt hU hH h28 h12
  case garbage => exact fun ⟨hU, hH⟩ => ⟨_, decodeFrame_of_garbage hU hH⟩
  case incomplete => exact fun ⟨_, hU, hH, h12⟩ => decodeFrame_of_incomplete hU hH h12

/-! ### The synchronizer's order of tests (R91) -/

/-- Settles O6: each way a classification comes out is a row of the selection table, since what it compares are bytes of
the view. -/
theorem tableAndAlgorithmAgree : Obligations.TableAndAlgorithmAgree := by
  intro s
  have hcases := Machine.syncClassify_cases s.unread s.window
  rw [Machine.bytesAt_window (k := 0) (n := 4) (by decide), Machine.bytesAt_window (k := 28) (n := 2) (by decide),
    Machine.bytesAt_window (k := 12) (n := 2) (by decide), List.drop_zero, Machine.unread_eq_view_length] at hcases
  rw [Machine.State.verdict, Machine.unread_eq_view_length]
  obtain ⟨hU, hv⟩ | ⟨hU, hH, hv⟩ | ⟨hU, hH, h28, hv⟩ | ⟨hU, hH, hM, h12, hv⟩ | ⟨hU, hH, h28, h12, hv⟩ |
    ⟨-, hU, hH, h12, hv⟩ := hcases <;> rw [hv]
  · exact decodeFrame_of_short hU
  · exact ⟨_, decodeFrame_of_garbage hU hH⟩
  · exact ⟨_, _, _, decodeFrame_of_multi hU hH h28⟩
  · exact ⟨_, decodeFrame_of_single hM hU hH h12⟩
  · exact decodeFrame_of_corrupt hU hH h28 h12
  · exact decodeFrame_of_incomplete hU hH h12

/-! ### A decoded row is the front of the unread bytes (R51, R52) -/

theorem wordBytes_wordAt {w : List Byte} {k : Nat} (h : k + 2 ≤ w.length) : wordBytes (wordAt w k) = (w.drop k).take 2 :=
  wordBytes_leValue _ (by simp; omega)

/-- No bit of a block is dropped or moved when it is read. -/
theorem bytes_blockAt {w : List Byte} {o : Nat} (h : o + 8 ≤ w.length) : (blockAt w o).bytes = (w.drop o).take 8 := by
  have hpads : (w.drop (o + 6)).take 2 = [w.getD (o + 6) 0, w.getD (o + 7) 0] := by
    rw [List.drop_eq_getElem_cons (by omega), List.drop_eq_getElem_cons (by omega), List.getD_eq_getElem _ _ (by omega),
      List.getD_eq_getElem _ _ (by omega)]
    rfl
  calc (blockAt w o).bytes
      = (w.drop o).take 2 ++ (w.drop (o + 2)).take 2 ++ (w.drop (o + 4)).take 2 ++ (w.drop (o + 6)).take 2 := by
        rw [Block.bytes, hpads]
        simp only [blockAt]
        rw [wordBytes_wordAt (by omega), wordBytes_wordAt (by omega), wordBytes_wordAt (by omega)]
    _ = (w.drop o).take 8 := by
        rw [show 8 = 2 + 2 + 2 + 2 from rfl]
        simp only [List.take_add, List.drop_drop]

theorem encode_multi_blockAt {w : List Byte} (hU : 30 ≤ w.length) (hH : w.take 4 = [0xAA, 0xFF, 0x03, 0x00])
    (h28 : (w.drop 28).take 2 = [0x55, 0xCC]) :
    encode (.multi (blockAt w 4) (blockAt w 12) (blockAt w 20)) = w.take 30 := by
  calc encode (.multi (blockAt w 4) (blockAt w 12) (blockAt w 20))
      = w.take 4 ++ (w.drop 4).take 8 ++ (w.drop 12).take 8 ++ (w.drop 20).take 8 ++ (w.drop 28).take 2 := by
        rw [encode, bytes_blockAt (by omega), bytes_blockAt (by omega), bytes_blockAt (by omega), hH, h28]
        rfl
    _ = w.take 30 := by
        rw [show 30 = 4 + 8 + 8 + 8 + 2 from rfl]
        simp only [List.take_add]

theorem encode_single_blockAt {w : List Byte} (hU : 14 ≤ w.length) (hH : w.take 4 = [0xAA, 0xFF, 0x03, 0x00])
    (h12 : (w.drop 12).take 2 = [0x55, 0xCC]) : encode (.single (blockAt w 4)) = w.take 14 := by
  calc encode (.single (blockAt w 4))
      = w.take 4 ++ (w.drop 4).take 8 ++ (w.drop 12).take 2 := by
        rw [encode, bytes_blockAt (by omega), hH, h12]
        rfl
    _ = w.take 14 := by
        rw [show 14 = 4 + 8 + 2 from rfl]
        simp only [List.take_add]

/-- What stands where a row decodes, for each of the four rows of the byte stream (R56 rows 1 to 4). -/
theorem decodeFrame_eq_ok {w : List Byte} {i : Instr} (h : decodeFrame w = .ok i) :
    (∃ b1 b2 b3, i = .multi b1 b2 b3 ∧ encode i = w.take 30) ∨ (∃ b, i = .single b ∧ encode i = w.take 14) ∨
      (i = .corruptByte ∧ encode i = w.take 1) ∨ (∃ b, i = .garbageByte b ∧ encode i = w.take 1) := by
  unfold decodeFrame at h
  split at h
  next hm =>
    cases h
    obtain ⟨hU, hH, h28⟩ := (multiRow_hits w).1 hm
    exact .inl ⟨_, _, _, rfl, encode_multi_blockAt hU hH h28⟩
  split at h
  next hs =>
    cases h
    obtain ⟨hU, hH, h12⟩ := (singleRow_hits w).1 hs
    exact .inr (.inl ⟨_, rfl, encode_single_blockAt hU hH h12⟩)
  split at h
  next hH =>
    split at h <;> cases h
    have hfront : w.take 1 = [0xAA] := by
      simpa [List.take_take] using congrArg (List.take 1) ((headerAt0_iff w).1 hH)
    exact .inr (.inr (.inl ⟨rfl, hfront.symm⟩))
  next =>
    split at h <;> cases h
    cases w with
    | nil => contradiction
    | cons b w => exact .inr (.inr (.inr ⟨_, rfl, rfl⟩))

theorem isOp_of_decodeFrame {w : List Byte} {i : Instr} (h : decodeFrame w = .ok i) : i.isOp = false := by
  obtain ⟨_, _, _, rfl, -⟩ | ⟨_, rfl, -⟩ | ⟨rfl, -⟩ | ⟨_, rfl, -⟩ := decodeFrame_eq_ok h <;> rfl

theorem encode_of_decodeFrame {w : List Byte} {i : Instr} (h : decodeFrame w = .ok i) :
    encode i = w.take (encode i).length := by
  obtain ⟨_, _, _, rfl, he⟩ | ⟨_, rfl, he⟩ | ⟨rfl, he⟩ | ⟨_, rfl, he⟩ := decodeFrame_eq_ok h
  · rwa [encode_multi_length]
  · rwa [encode_single_length]
  · exact he
  · exact he

/-- Settles O4: the row consumes no more than is there, and what it consumes is its encoding. -/
theorem decodedRowIsTheUnreadFront : Obligations.DecodedRowIsTheUnreadFront :=
  fun _ _ h => ⟨isOp_of_decodeFrame h, (Machine.encode_length_of_decodeFrame h).2, encode_of_decodeFrame h⟩

/-! ### The round trip -/

/-- A row of the right length that decodes from an encoding has that encoding. -/
theorem encode_eq_of_decodeFrame_append {i j : Instr} {rest : List Byte} (h : decodeFrame (encode i ++ rest) = .ok j)
    (hlen : (encode j).length = (encode i).length) : encode j = encode i := by
  rw [encode_of_decodeFrame h, hlen, List.take_left]

theorem encode_multi_injective {b1 b2 b3 c1 c2 c3 : Block} (h : encode (.multi b1 b2 b3) = encode (.multi c1 c2 c3)) :
    Instr.multi b1 b2 b3 = .multi c1 c2 c3 := by
  obtain ⟨hb1, hb2, hb3⟩ := Machine.blockAt_encode_multi b1 b2 b3
  obtain ⟨hc1, hc2, hc3⟩ := Machine.blockAt_encode_multi c1 c2 c3
  rw [h] at hb1 hb2 hb3
  rw [hb1.symm.trans hc1, hb2.symm.trans hc2, hb3.symm.trans hc3]

theorem encode_single_injective {b c : Block} (h : encode (.single b) = encode (.single c)) :
    Instr.single b = .single c := by
  rw [← Machine.blockAt_encode_single b, h, Machine.blockAt_encode_single]

theorem decodeFrame_encode_multi (b1 b2 b3 : Block) (rest : List Byte) :
    decodeFrame (encode (.multi b1 b2 b3) ++ rest) = .ok (.multi b1 b2 b3) := by
  have hd := decodeFrame_of_multi (w := encode (.multi b1 b2 b3) ++ rest) (by simp [encode_multi_length])
    (by simp [encode, Config.HDR])
    (by simp [encode, Config.HDR, Config.TRL, List.drop_append, List.drop_eq_nil_of_le])
  rw [hd, encode_multi_injective (encode_eq_of_decodeFrame_append hd (by simp only [encode_multi_length]))]

theorem decodeFrame_encode_single (b : Block) (rest : List Byte) (h : (rest.drop 14).take 2 ≠ [0x55, 0xCC]) :
    decodeFrame (encode (.single b) ++ rest) = .ok (.single b) := by
  have hdrop : (encode (.single b) ++ rest).drop 28 = rest.drop 14 := by
    rw [List.drop_append, List.drop_eq_nil_of_le (by simp [encode_single_length]), encode_single_length, List.nil_append]
  have hd := decodeFrame_of_single (w := encode (.single b) ++ rest) (fun ⟨_, h28⟩ => h (hdrop ▸ h28))
    (by simp [encode_single_length]) (by simp [encode, Config.HDR]) (by simp [encode, Config.HDR, Config.TRL])
  rw [hd, encode_single_injective (encode_eq_of_decodeFrame_append hd (by simp only [encode_single_length]))]

/-- Settles O3: the two frames are read back from the front they occupy; the two skipped bytes are the selection table's rows
at a stream that begins with them. -/
theorem framesRoundTrip : Obligations.FramesRoundTrip := by
  refine ⟨decodeFrame_encode_multi, decodeFrame_encode_single, ?garbage, ?corrupt⟩
  case garbage => exact fun b rest hU hH => decodeFrame_of_garbage (w := b :: rest) (Nat.succ_le_succ hU) hH
  case corrupt =>
    intro rest hU hH h28 h12
    have hheader : (0xAA :: rest).take 4 = [0xAA, 0xFF, 0x03, 0x00] := congrArg (0xAA :: ·) hH
    exact decodeFrame_of_corrupt (w := 0xAA :: rest) (Nat.succ_le_succ hU) hheader h28 h12

/-- Settles O1: both decoders run on the bytes. -/
theorem writtenWordsDecode : Obligations.WrittenWordsDecode := by
  unfold Obligations.WrittenWordsDecode
  decide

end Sys2Proof
end

section
/-! PROOFS. The ignored bytes of a block have no effect (30_encoding.md R59): first in a frame row and in the extractions,
then in a whole cycle. For the cycle the drain loop is read as the rows it meets, run one after another (R147), and two states
that differ in BUF's own bytes alone are carried through it side by side. -/

namespace Sys2Proof.Machine

/-! ### Frame rows and extractions -/

theorem extractSingle_congr {onRaw : Bool} {f g : List Byte}
    (h : decodeBlock onRaw f TargetIdx.t1.blkOff = decodeBlock onRaw g TargetIdx.t1.blkOff) (angle : InstallAngle) :
    extractSingle onRaw f angle = extractSingle onRaw g angle := by
  rw [extractSingle, extractSingle, h]

/-- A frame copy acts through its extraction alone. -/
theorem deliverFrame_congr {kind : FrameKind} {f g : List Byte} (h : ∀ s, extractInto kind f s = extractInto kind g s)
    (s : State) : deliverFrame kind f s = deliverFrame kind g s := by
  simp only [deliverFrame, h]

theorem extractInto_single_congr {b c : Block} (h : SameWords b c) (s : State) :
    extractInto .single (encode (.single b)) s = extractInto .single (encode (.single c)) s := by
  have hblock (onRaw : Bool) :
      decodeBlock onRaw (encode (.single b)) TargetIdx.t1.blkOff =
        decodeBlock onRaw (encode (.single c)) TargetIdx.t1.blkOff := by
    rw [TargetIdx.blkOff, decodeBlock_encode_single, decodeBlock_encode_single, h.targetOf_eq]
  rw [extractInto, extractInto, extractSingle_congr (hblock _)]

theorem extractInto_multi_congr {b1 b2 b3 c1 c2 c3 : Block} (h1 : SameWords b1 c1) (h2 : SameWords b2 c2)
    (h3 : SameWords b3 c3) (s : State) :
    extractInto .multi (encode (.multi b1 b2 b3)) s = extractInto .multi (encode (.multi c1 c2 c3)) s := by
  rw [extractInto, extractInto, extractMulti_encode, extractMulti_encode, h1.targetOf_eq, h2.targetOf_eq, h3.targetOf_eq]

theorem SameRead.exec_eq {i j : Instr} (h : SameRead i j) (s : State) : exec i s = exec j s := by
  cases h with
  | same => rfl
  | single h => exact deliverFrame_congr (extractInto_single_congr h) s
  | multi h1 h2 h3 => exact deliverFrame_congr (extractInto_multi_congr h1 h2 h3) s

theorem AgreeOff.execDecodeBlock_eq {f g : List Byte} {j : TargetIdx} (h : AgreeOff [j.blkOff + 6, j.blkOff + 7] f g)
    (s : State) : execDecodeBlock f j s = execDecodeBlock g j s := by
  have hblock := h.decodeBlock_eq s.params.presentOnRaw (o := j.blkOff) (by simp; omega)
  rw [execDecodeBlock, execDecodeBlock, h.1, hblock]

theorem AgreeOff.execExtractMulti_eq {f g : List Byte} (h : AgreeOff [10, 11, 18, 19, 26, 27] f g) (s : State) :
    execExtractMulti f s = execExtractMulti g s := by
  have hblock (j : TargetIdx) :
      decodeBlock s.params.presentOnRaw f j.blkOff = decodeBlock s.params.presentOnRaw g j.blkOff :=
    h.decodeBlock_eq _ (by cases j <;> decide)
  have hmulti : extractMulti s.params.presentOnRaw f = extractMulti s.params.presentOnRaw g := by
    rw [extractMulti, extractMulti, hblock, hblock, hblock]
  rw [execExtractMulti, execExtractMulti, h.1, hmulti]

theorem AgreeOff.execExtractSingle_eq {f g : List Byte} (h : AgreeOff [10, 11] f g) (s : State) :
    execExtractSingle f s = execExtractSingle g s := by
  have hblock := h.decodeBlock_eq s.params.presentOnRaw (o := TargetIdx.t1.blkOff) (by decide)
  rw [execExtractSingle, execExtractSingle, h.1, extractSingle_congr hblock]

/-! ### The drain loop as the rows it meets (R56, R147) -/

theorem exec_row_of_verdict_skip {s : State} {i : Instr} {counted : Bool} (hv : s.verdict = .skip1 counted)
    (h : decodeFrame s.view = .ok i) : exec i s = applySkip counted s := by
  have hrow := tableAndAlgorithmAgree s
  rw [hv, h] at hrow
  cases counted with
  | true =>
    cases hrow
    rfl
  | false =>
    obtain ⟨b, hrow⟩ := hrow
    cases hrow
    rfl

/-- The frame copy that the drain loop takes is the row's own encoding (R136). -/
theorem exec_row_of_verdict_frame {s : State} {i : Instr} {kind : FrameKind} (hv : s.verdict = .frame kind)
    (h : decodeFrame s.view = .ok i) : exec i s = deliverFrame kind (s.frameCopy kind) s := by
  have hcopy := encode_of_decodeFrame h
  have hrow := tableAndAlgorithmAgree s
  rw [hv, h] at hrow
  cases kind with
  | single =>
    obtain ⟨b, hrow⟩ := hrow
    cases hrow
    rw [encode_single_length] at hcopy
    exact congrArg (deliverFrame .single · s) hcopy
  | multi =>
    obtain ⟨b1, b2, b3, hrow⟩ := hrow
    cases hrow
    rw [encode_multi_length] at hcopy
    exact congrArg (deliverFrame .multi · s) hcopy

/-- Where the unread bytes decode, the drain loop runs that row and goes on. -/
theorem drain_of_row {s : State} {i : Instr} (h : decodeFrame s.view = .ok i) : drain s = andThen (exec i s) drain := by
  rw [drain_eq]
  cases hv : s.verdict with
  | needMore =>
    have hwait := tableAndAlgorithmAgree s
    rw [hv, h] at hwait
    cases hwait
  | skip1 counted => rw [exec_row_of_verdict_skip hv h]
  | frame kind => rw [exec_row_of_verdict_frame hv h]

theorem drain_of_wait {s : State} {e : DecodeError} (h : decodeFrame s.view = .error e) :
    drain s = .next (recordEvent .incomplete s) := by
  have hrow := tableAndAlgorithmAgree s
  rw [drain_eq]
  cases hv : s.verdict with
  | needMore => rfl
  | skip1 counted => cases counted <;> simp [hv, h] at hrow
  | frame kind => cases kind <;> simp [hv, h] at hrow

/-- The drain loop by the list of rows that stand in the unread bytes. -/
theorem drain_of_rowsOf_nil {s : State} (h : rowsOf s.view = []) : drain s = .next (recordEvent .incomplete s) := by
  rw [rowsOf_eq] at h
  split at h
  next => cases h
  next e he => exact drain_of_wait he

theorem decodeFrame_of_rowsOf_cons {w : List Byte} {i : Instr} {rows : List Instr} (h : rowsOf w = i :: rows) :
    decodeFrame w = .ok i ∧ rowsOf (w.drop (encode i).length) = rows := by
  rw [rowsOf_eq] at h
  split at h
  next j hj =>
    cases h
    exact ⟨hj, rfl⟩
  next => cases h

theorem Consumes.view {n : Nat} {s t : State} (h : Consumes n s t) : t.view = s.view.drop n := by
  simp [State.view, h.buf, h.cursor]

theorem view_enforceCapacity {max : Nat} {s t : State} (h : enforceCapacity max s = .next t) : t.view = s.view := by
  obtain ⟨-, rfl⟩ | ⟨-, -, rfl⟩ := enforceCapacity_eq_next.1 h
  · rfl
  · exact view_dropFront (evicted_le_cursor max s)

@[simp] theorem view_clearTargets (s : State) : (clearTargets s).view = s.view := rfl

/-- INGEST by its one test, refusal included (R70). -/
theorem ingest_eq (s : State) :
    ingest s =
      if s.params.fits (s.len + s.rx.length) then .next { s with buf := s.buf ++ s.rx, rx := [] }
      else .refused .physCapExceeded := by
  simp [ingest, rxDrain, foldl_memAppend]

/-! ### Outcomes side by side -/

/-- Two outcomes alike: next states that stand in the relation, or one and the same refusal. There is no fault (R160). -/
inductive Alike (R : State → State → Prop) : Out → Out → Prop where
  | next {s t : State} (h : R s t) : Alike R (.next s) (.next t)
  | refused (r : Refusal) : Alike R (.refused r) (.refused r)

namespace Alike

variable {R Q : State → State → Prop} {o o' : Out}

theorem andThen {k k' : State → Out} (h : Alike R o o')
    (hk : ∀ {s t}, o = .next s → o' = .next t → R s t → Alike Q (k s) (k' t)) :
    Alike Q (andThen o k) (andThen o' k') := by
  cases h with
  | next h => exact hk rfl rfl h
  | refused r => exact .refused r

theorem next_of_next {s : State} (h : Alike R (.next s) o) : ∃ t, R s t ∧ o = .next t := by
  cases h with
  | next h => exact ⟨_, h, rfl⟩

theorem refused_of_refused {r : Refusal} (h : Alike R (.refused r) o) : o = .refused r := by
  cases h
  rfl

end Alike

/-! ### States that differ in BUF's own bytes alone -/

/-- `t` is `s` but for BUF's bytes, of which there are as many. -/
def SameButBuf (s t : State) : Prop := ∃ buf : List Byte, buf.length = s.len ∧ t = { s with buf := buf }

namespace SameButBuf

variable {s t : State}

theorem len_eq (h : SameButBuf s t) : t.len = s.len := by
  obtain ⟨buf, hlen, rfl⟩ := h
  exact hlen

theorem cursor_eq (h : SameButBuf s t) : t.cursor = s.cursor := by
  obtain ⟨buf, -, rfl⟩ := h
  rfl

theorem unread_eq (h : SameButBuf s t) : t.unread = s.unread := by
  rw [State.unread, State.unread, h.len_eq, h.cursor_eq]

theorem advanceBy (h : SameButBuf s t) (n : Nat) : Alike SameButBuf (advanceBy n s) (advanceBy n t) := by
  unfold Machine.advanceBy
  rw [h.unread_eq]
  obtain ⟨buf, hlen, rfl⟩ := h
  split
  · exact .next ⟨buf, hlen, rfl⟩
  · exact .refused _

theorem bumpBad (h : SameButBuf s t) : Alike SameButBuf (bumpBad s) (bumpBad t) := by
  obtain ⟨buf, hlen, rfl⟩ := h
  unfold Machine.bumpBad
  split
  · exact .next ⟨buf, hlen, rfl⟩
  · exact .refused _

theorem bumpParsed (h : SameButBuf s t) : Alike SameButBuf (bumpParsed s) (bumpParsed t) := by
  obtain ⟨buf, hlen, rfl⟩ := h
  unfold Machine.bumpParsed
  split
  · exact .next ⟨buf, hlen, rfl⟩
  · exact .refused _

theorem recordEvent (h : SameButBuf s t) (e : Event) : SameButBuf (recordEvent e s) (recordEvent e t) := by
  obtain ⟨buf, hlen, rfl⟩ := h
  exact ⟨buf, hlen, rfl⟩

theorem storeTarget (h : SameButBuf s t) (j : TargetIdx) (x : Slot) : SameButBuf (storeTarget j x s) (storeTarget j x t) := by
  obtain ⟨buf, hlen, rfl⟩ := h
  cases x with
  | none => exact ⟨buf, hlen, rfl⟩
  | some r => cases j <;> exact ⟨buf, hlen, rfl⟩

theorem extractInto (h : SameButBuf s t) (kind : FrameKind) (f : List Byte) :
    Alike SameButBuf (extractInto kind f s) (extractInto kind f t) := by
  have hp : t.params = s.params := by obtain ⟨buf, -, rfl⟩ := h; rfl
  have ha : t.installOffsetDeg = s.installOffsetDeg := by obtain ⟨buf, -, rfl⟩ := h; rfl
  cases kind with
  | multi =>
    rw [Machine.extractInto, Machine.extractInto, hp]
    exact .next (((h.storeTarget _ _).storeTarget _ _).storeTarget _ _)
  | single =>
    rw [Machine.extractInto, Machine.extractInto, hp, ha]
    split
    · exact .next (h.storeTarget _ _)
    · exact .refused _

theorem stampLastSeen (h : SameButBuf s t) : SameButBuf (stampLastSeen s) (stampLastSeen t) := by
  obtain ⟨buf, hlen, rfl⟩ := h
  exact ⟨buf, hlen, rfl⟩

theorem deliverFrame (h : SameButBuf s t) (kind : FrameKind) (f : List Byte) :
    Alike SameButBuf (deliverFrame kind f s) (deliverFrame kind f t) :=
  (h.advanceBy _).andThen fun _ _ h => (h.extractInto kind f).andThen fun _ _ h => h.stampLastSeen.bumpParsed

theorem applySkip (h : SameButBuf s t) (counted : Bool) : Alike SameButBuf (applySkip counted s) (applySkip counted t) := by
  refine (h.advanceBy 1).andThen fun _ _ h => ?_
  cases counted with
  | true => exact h.bumpBad.andThen fun _ _ h => .next (h.recordEvent _)
  | false => exact .next (h.recordEvent _)

/-- A row reads nothing of BUF but its length (R43). -/
theorem row (h : SameButBuf s t) {i : Instr} (hi : i.isOp = false) : Alike SameButBuf (exec i s) (exec i t) := by
  cases i with
  | multi b1 b2 b3 => exact h.deliverFrame .multi _
  | single b => exact h.deliverFrame .single _
  | corruptByte => exact h.applySkip true
  | garbageByte b => exact h.applySkip false
  | _ => cases hi

/-- The same rows but for ignored bytes drain alike. -/
theorem drain (h : SameButBuf s t) (hrows : List.Forall₂ SameRead (rowsOf s.view) (rowsOf t.view)) :
    Alike SameButBuf (drain s) (drain t) := by
  generalize hs : rowsOf s.view = rows at hrows
  generalize ht : rowsOf t.view = rows' at hrows
  induction hrows generalizing s t with
  | nil =>
    rw [drain_of_rowsOf_nil hs, drain_of_rowsOf_nil ht]
    exact .next (h.recordEvent _)
  | @cons i j rows rows' hij _ ih =>
    obtain ⟨hi, hrows⟩ := decodeFrame_of_rowsOf_cons hs
    obtain ⟨hj, hrows'⟩ := decodeFrame_of_rowsOf_cons ht
    have hrow := h.row (isOp_of_decodeFrame hi)
    rw [drain_of_row hi, drain_of_row hj, ← hij.exec_eq t]
    refine hrow.andThen fun hm hm' h => ih h ?_ ?_
    · rw [(Consumes.row (isOp_of_decodeFrame hi) hm).view, hrows]
    · rw [(Consumes.row (isOp_of_decodeFrame hi) hm').view, hij.length_eq, hrows']

theorem dropFront (h : SameButBuf s t) (d : Nat) : SameButBuf (dropFront d s) (dropFront d t) := by
  obtain ⟨buf, hlen, rfl⟩ := h
  exact ⟨buf.drop d, by simp_all [State.len], rfl⟩

theorem enforceCapacity (h : SameButBuf s t) (max : Nat) :
    Alike SameButBuf (enforceCapacity max s) (enforceCapacity max t) := by
  have hevicted : evicted max t = evicted max s := by rw [evicted, evicted, h.len_eq, h.cursor_eq]
  rw [Machine.enforceCapacity, Machine.enforceCapacity, h.len_eq, hevicted]
  split
  · exact (h.dropFront _).bumpBad.andThen fun _ _ h => .next (h.recordEvent _)
  · exact .next h

theorem compact (h : SameButBuf s t) : SameButBuf (compact s) (compact t) := by
  rw [Machine.compact, Machine.compact, h.len_eq, h.cursor_eq]
  split
  · exact (h.dropFront _).recordEvent _
  · exact h

theorem clearTargets (h : SameButBuf s t) : SameButBuf (clearTargets s) (clearTargets t) := by
  obtain ⟨buf, hlen, rfl⟩ := h
  exact ⟨buf, hlen, rfl⟩

/-- Both samples read no more of BUF than its length (R148, R149). -/
theorem sampled (h : SameButBuf s t) :
    SameButBuf (sampleDuration (samplePending s)) (sampleDuration (samplePending t)) := by
  have hpending : pendingUnread t = pendingUnread s := by rw [pendingUnread, pendingUnread, h.len_eq, h.cursor_eq]
  rw [samplePending, samplePending, hpending]
  obtain ⟨buf, hlen, rfl⟩ := h
  exact ⟨buf, hlen, rfl⟩

theorem ingest {buf rx : List Byte} (hbuf : buf.length = s.buf.length) (hrx : rx.length = s.rx.length) :
    Alike SameButBuf (ingest s) (ingest { s with buf := buf, rx := rx }) := by
  have hlen : ({ s with buf := buf, rx := rx } : State).len = s.len := hbuf
  rw [ingest_eq, ingest_eq, hlen]
  simp only [hrx]
  split
  · exact .next ⟨buf ++ rx, by simp [State.len, hbuf, hrx], rfl⟩
  · exact .refused _

/-- A cycle over rows that differ in ignored bytes comes out alike (R59, R145). -/
theorem decodeCycle {buf rx : List Byte} (hbuf : buf.length = s.buf.length) (hrx : rx.length = s.rx.length)
    (hrows : List.Forall₂ SameRead s.cycleRows ({ s with buf := buf, rx := rx } : State).cycleRows) :
    Alike SameButBuf (decodeCycle s) (decodeCycle { s with buf := buf, rx := rx }) := by
  refine (ingest hbuf hrx).andThen fun ha ha' h => ?_
  refine (h.enforceCapacity _).andThen fun hb hb' h => ?_
  refine (h.clearTargets.drain ?_).andThen fun _ _ h => .next h.compact.sampled
  obtain ⟨-, rfl⟩ := ingest_eq_next.1 ha
  obtain ⟨-, rfl⟩ := ingest_eq_next.1 ha'
  rw [view_clearTargets, view_clearTargets, view_enforceCapacity hb, view_enforceCapacity hb']
  exact hrows

end SameButBuf

/-- Settles O7: the frame rows, the three extractions, and the cycle, whose two runs stay alike. -/
theorem ignoredBytesHaveNoEffect : Obligations.IgnoredBytesHaveNoEffect := by
  refine ⟨fun _ _ s h => h.exec_eq s, fun _ _ _ s h => h.execDecodeBlock_eq s, fun _ _ s h => h.execExtractMulti_eq s,
    fun _ _ s h => h.execExtractSingle_eq s, fun s buf rx hbuf hrx hrows => ?_⟩
  have hcycle : Alike SameButBuf (exec .decodeCycle s) (exec .decodeCycle { s with buf := buf, rx := rx }) :=
    SameButBuf.decodeCycle hbuf hrx hrows
  constructor
  · intro t ht
    obtain ⟨_, ⟨buf', hlen, rfl⟩, hnext⟩ := (ht ▸ hcycle).next_of_next
    exact ⟨buf', hlen, hnext⟩
  · intro r hr
    exact (hr ▸ hcycle).refused_of_refused

end Sys2Proof.Machine
end

section
/-! PROOFS. The buffer manager's operations (40_buffer_manager.md): what each answers, stop included, and the bounds they leave
at the end of a cycle (R78). -/

namespace Sys2Proof.Machine

/-! ### The end of a cycle (R78) -/

/-- Settles O44: a cycle ends at a cycle boundary, with CURSOR still within BUF. -/
theorem cycleEndBounds : Obligations.CycleEndBounds := by
  intro s t hs h
  obtain ⟨hunread, hcursor, hlen, hpending⟩ := decodeCycle_boundary hs h
  obtain ⟨hwithin, -⟩ := LosesOnlyFront.holdsAcrossOps.decodeCycle h hs
  exact ⟨hunread, hcursor, hlen, hwithin, hpending⟩

/-! ### INGEST, PENDING_UNREAD (R70, R71) -/

/-- Settles O16: by INGEST's one test. -/
theorem ingestAppendsAllOfRx : Obligations.IngestAppendsAllOfRx :=
  fun s => ⟨fun h => (ingest_eq s).trans (if_pos h), fun h => (ingest_eq s).trans (if_neg (by simp [h]))⟩

/-- Settles O17: the two cases of the count. -/
theorem pendingUnreadReportsUnreadCount : Obligations.PendingUnreadReportsUnreadCount := by
  intro s
  refine ⟨pendingUnread s, rfl, fun h => ?_, fun h => ?_⟩
  · rw [pendingUnread, if_pos h, BitVec.toNat_ofNat]
  · rw [pendingUnread, if_neg (Nat.not_le.2 h)]

/-! ### ENFORCE_CAPACITY (R72) -/

theorem enforceCapacity_of_le {max : Nat} {s : State} (h : s.len ≤ max) : enforceCapacity max s = .next s :=
  enforceCapacity_eq_next.2 (.inl ⟨h, rfl⟩)

theorem enforceCapacity_of_lt {max : Nat} {s : State} (h : max < s.len)
    (hc : s.params.counts (s.framesBad + 1) = true) :
    enforceCapacity max s = .next { s with
      buf := s.buf.drop (evicted max s)
      cursor := s.cursor - evicted max s
      framesBad := s.framesBad + 1
      events := .overflow (evicted max s) :: s.events } :=
  enforceCapacity_eq_next.2 (.inr ⟨h, hc, rfl⟩)

/-- FRAMES_BAD is counted whatever is evicted, so its room decides (D6, D23). -/
theorem enforceCapacity_of_full {max : Nat} {s : State} (h : max < s.len)
    (hc : s.params.counts (s.framesBad + 1) = false) : enforceCapacity max s = .refused .counterOverflow := by
  simp [enforceCapacity, bumpBad, h, hc]

/-- Settles O18: nothing to do, room for the count, or none. -/
theorem enforceCapacityEvictsConsumedBytes : Obligations.EnforceCapacityEvictsConsumedBytes :=
  fun _ => ⟨enforceCapacity_of_le, enforceCapacity_of_lt, enforceCapacity_of_full⟩

/-- What is left above the ceiling is the unread bytes and as many consumed ones as fill it up (R72 (c)). -/
theorem len_sub_evicted {ceiling : Nat} {s : State} (hs : s.cursor ≤ s.len) (h : ceiling < s.len) :
    s.len - evicted ceiling s = max ceiling (s.len - s.cursor) := by
  unfold evicted
  omega

/-- Settles O19: the length by the evicted bytes, all of which lie before CURSOR. -/
theorem capacityIsConditional : Obligations.CapacityIsConditional := by
  intro s t hs hmax h
  refine ⟨?_, view_enforceCapacity h, enforceCapacity_cursor_le h hs⟩
  obtain ⟨hle, -⟩ | ⟨-, -, rfl⟩ := enforceCapacity_eq_next.1 h
  · exact absurd hmax (Nat.not_lt.2 hle)
  · rw [State.len, List.length_drop]
    exact len_sub_evicted (ceiling := Config.MAX_LEN) hs hmax

/-! ### COMPACT, ADVANCE (R73, R74) -/

/-- Settles O20: by COMPACT's two cases. -/
theorem compactReclaimsMoreThanHalf : Obligations.CompactReclaimsMoreThanHalf := by
  intro s
  obtain ⟨hpos, hhalf, hc⟩ | ⟨hsmall, hc⟩ := compact_cases s
  · exact ⟨fun _ _ => congrArg _ hc, fun h => by omega⟩
  · exact ⟨fun h h' => by omega, fun _ => congrArg _ hc⟩

/-- Settles O21: the three strides, each under ADVANCE's precondition. -/
theorem advanceMovesCursor : Obligations.AdvanceMovesCursor := by
  intro s n
  refine ⟨?_, fun h => advanceBy_of_le (Nat.le_sub_of_add_le' h)⟩
  cases n <;> decide

end Sys2Proof.Machine
end

section
/-! PROOFS. Where the rows of the byte stream, the operations and DECODE_CYCLE stop, and with which refusal
(92_eei_decisions.md D6; 93_implementation_defined.md U1, U2, U10; log entry 12). An operation of a cycle that has its bytes
completes where both counters have room and the install angle serves; one judgement says so of each, a rule puts two in
sequence, and the drain loop is an induction over its rows. -/

namespace Sys2Proof.Machine

/-! ### Operations outside their operands (log entry 12) -/

/-- An operation guarded by a test of its operands stops exactly where the test fails. -/
theorem guarded_eq_refused {p : Prop} [Decidable p] {t : State} {r : Refusal} :
    (if p then .next t else .refused r : Out) = .refused r ↔ ¬p := by
  by_cases hp : p <;> simp [hp]

/-- EXTRACT_SINGLE completes, or it meets a present target under a non-finite angle (R130, U10). -/
theorem extractSingle_cases (onRaw : Bool) (f : List Byte) (angle : InstallAngle) :
    (∃ t, extractSingle onRaw f angle = .ok t ∧
      ((∃ deg, angle = .finite deg) ∨ decodeBlock onRaw f TargetIdx.t1.blkOff = none)) ∨
    (extractSingle onRaw f angle = .error .nonFiniteInstallOffset ∧
      ¬((∃ deg, angle = .finite deg) ∨ decodeBlock onRaw f TargetIdx.t1.blkOff = none)) := by
  unfold extractSingle
  cases hb : decodeBlock onRaw f TargetIdx.t1.blkOff with
  | none => exact .inl ⟨none, rfl, .inr rfl⟩
  | some t =>
    cases angle with
    | finite deg => exact .inl ⟨_, rfl, .inl ⟨deg, rfl⟩⟩
    | nonFinite => exact .inr ⟨rfl, by simp⟩

theorem execExtractSingle_eq_readOutsideFrame {f : List Byte} {s : State} :
    execExtractSingle f s = .refused .readOutsideFrame ↔ f.length ≠ 14 := by
  unfold execExtractSingle
  split
  next hlen =>
    obtain ⟨t, ht, -⟩ | ⟨ht, -⟩ := extractSingle_cases s.params.presentOnRaw f s.installOffsetDeg <;> simp [ht, hlen]
  next hlen => simp [hlen]

/-- Settles O40: each operation by the one test of its operands. -/
theorem operationsStopOutsideTheirOperands : Obligations.OperationsStopOutsideTheirOperands := by
  intro s n f offset j hs
  refine ⟨guarded_eq_refused.trans ?_, guarded_eq_refused.trans Nat.not_le, guarded_eq_refused.trans Nat.not_le,
    guarded_eq_refused, execExtractSingle_eq_readOutsideFrame⟩
  simp only [State.unread]
  omega

/-! ### Room in the counters (D6, U2) -/

/-- How many of these rows are frames: those of more than one byte (R56). -/
def framesIn (rows : List Instr) : Nat := rows.countP fun i => decide (1 < (encode i).length)

/-- Both counters have room for `frames` more frames and `bad` more anomalies. -/
def State.HasRoom (s : State) (frames bad : Nat) : Prop :=
  (frames = 0 ∨ s.params.counts (s.framesParsed + frames) = true) ∧
    (bad = 0 ∨ s.params.counts (s.framesBad + bad) = true)

/-- The install angle is a finite number, or none of these rows is a present single target. -/
def State.AngleServes (s : State) (rows : List Instr) : Prop :=
  (∃ deg, s.installOffsetDeg = .finite deg) ∨
    ∀ b, .single b ∈ rows → targetOf s.params.presentOnRaw b.x b.y b.v = none

theorem cycleHasRoom_iff (s : State) : s.CycleHasRoom ↔ s.HasRoom s.cycleFrames s.cycleBad := Iff.rfl

theorem cycleAngleUsable_iff (s : State) : s.CycleAngleUsable ↔ s.AngleServes s.cycleRows := Iff.rfl

theorem counts_mono {p : Params} {m n : Nat} (hmn : m ≤ n) (h : p.counts n = true) : p.counts m = true := by
  unfold Params.counts at *
  cases hw : p.ctrW with
  | none => rfl
  | some w =>
    rw [hw] at h
    exact decide_eq_true (Nat.lt_of_le_of_lt hmn (of_decide_eq_true h))

theorem room_add {p : Params} {n a b : Nat} :
    (a + b = 0 ∨ p.counts (n + (a + b)) = true) ↔
      (a = 0 ∨ p.counts (n + a) = true) ∧ (b = 0 ∨ p.counts (n + a + b) = true) := by
  rw [← Nat.add_assoc]
  constructor
  · rintro (h0 | h)
    · exact ⟨.inl (by omega), .inl (by omega)⟩
    · exact ⟨.inr (counts_mono (Nat.le_add_right _ _) h), .inr h⟩
  · rintro ⟨ha | ha, rfl | hb⟩
    · exact .inl ha
    · exact .inr hb
    · exact .inr ha
    · exact .inr hb

/-- Room for two amounts is room for the first, and for the second where the first has been counted. -/
theorem hasRoom_add {s m : State} {frames bad frames' bad' : Nat} (hparsed : m.framesParsed = s.framesParsed + frames)
    (hbad : m.framesBad = s.framesBad + bad) (hparams : m.params = s.params) :
    s.HasRoom (frames + frames') (bad + bad') ↔ s.HasRoom frames bad ∧ m.HasRoom frames' bad' := by
  simp only [State.HasRoom, room_add, hparsed, hbad, hparams]
  tauto

theorem State.AngleServes.congr {s t : State} (hp : t.params = s.params) (ha : t.installOffsetDeg = s.installOffsetDeg)
    (rows : List Instr) : t.AngleServes rows ↔ s.AngleServes rows := by
  rw [State.AngleServes, State.AngleServes, hp, ha]

theorem angleServes_cons {s : State} {i : Instr} {rows : List Instr} :
    s.AngleServes (i :: rows) ↔ s.AngleServes [i] ∧ s.AngleServes rows := by
  simp only [State.AngleServes, List.mem_cons, List.not_mem_nil, or_false, or_imp, forall_and]
  tauto

/-- `t` has the counters of `s`, and its parameters and install angle. -/
structure SameCounts (s t : State) : Prop where
  parsed : t.framesParsed = s.framesParsed
  bad : t.framesBad = s.framesBad
  params : t.params = s.params
  angle : t.installOffsetDeg = s.installOffsetDeg

/-- From `s`, an operation that is to count `frames` frames and `bad` anomalies and needs `angle` of the install angle: it
completes where there is room and `angle` holds, and else stops by the name of what is missing. -/
inductive Counted (s : State) (frames bad : Nat) (angle : Prop) : Out → Prop where
  | completes {t : State} (room : s.HasRoom frames bad) (serves : angle)
      (parsed_eq : t.framesParsed = s.framesParsed + frames) (bad_eq : t.framesBad = s.framesBad + bad)
      (params_eq : t.params = s.params) (angle_eq : t.installOffsetDeg = s.installOffsetDeg) :
      Counted s frames bad angle (.next t)
  | overflows (full : ¬s.HasRoom frames bad) : Counted s frames bad angle (.refused .counterOverflow)
  | angleFails (fails : ¬angle) : Counted s frames bad angle (.refused .nonFiniteInstallOffset)

namespace Counted

variable {s t : State} {frames bad frames' bad' : Nat} {angle angle' : Prop} {o : Out}

/-- An operation that counts nothing and reads no angle. -/
theorem of_silent (h : SameCounts s t) : Counted s 0 0 True (.next t) :=
  .completes ⟨.inl rfl, .inl rfl⟩ trivial h.parsed h.bad h.params h.angle

/-- In sequence the counts add up and both needs of the angle stand. -/
theorem andThen {k : State → Out} (h : Counted s frames bad angle o)
    (hk : ∀ m, o = .next m → m.params = s.params → m.installOffsetDeg = s.installOffsetDeg →
      Counted m frames' bad' angle' (k m)) :
    Counted s (frames + frames') (bad + bad') (angle ∧ angle') (andThen o k) := by
  cases h with
  | overflows full => exact .overflows fun h => full ⟨(room_add.1 h.1).1, (room_add.1 h.2).1⟩
  | angleFails fails => exact .angleFails fun h => fails h.1
  | @completes m room serves hp hb hparams hangle =>
    have hroom := hasRoom_add (frames' := frames') (bad' := bad') hp hb hparams
    have hm := hk m rfl hparams hangle
    rw [andThen_next]
    generalize k m = o' at hm
    cases hm with
    | completes room' serves' hp' hb' hparams' hangle' =>
      exact .completes (hroom.2 ⟨room, room'⟩) ⟨serves, serves'⟩ (by omega) (by omega) (hparams'.trans hparams)
        (hangle'.trans hangle)
    | overflows full => exact .overflows fun h => full (hroom.1 h).2
    | angleFails fails => exact .angleFails fun h => fails h.2

/-- An operation that counts nothing and reads no angle, put in front, changes nothing of the judgement. -/
theorem silentThen {k : State → Out} (h : Counted s 0 0 True o)
    (hk : ∀ m, o = .next m → m.params = s.params → m.installOffsetDeg = s.installOffsetDeg →
      Counted m frames bad angle (k m)) :
    Counted s frames bad angle (Machine.andThen o k) := by
  simpa using h.andThen hk

theorem thenSilent {g : State → State} (h : Counted s frames bad angle o) (hg : ∀ m, SameCounts m (g m)) :
    Counted s frames bad angle (Machine.andThen o fun m => .next (g m)) := by
  simpa using h.andThen fun m _ _ _ => of_silent (hg m)

/-- The judgement speaks of four fields of the state only. -/
theorem congr (h : Counted t frames bad angle o) (hst : SameCounts s t) : Counted s frames bad angle o :=
  (of_silent hst).silentThen (k := fun _ => o) fun _ ht _ _ => by
    cases ht
    exact h

theorem refused_overflow (h : Counted s frames bad angle o) (full : ¬s.HasRoom frames bad) (serves : angle) :
    o = .refused .counterOverflow := by
  cases h with
  | completes room => exact absurd room full
  | overflows => rfl
  | angleFails fails => exact absurd serves fails

theorem refused_angle (h : Counted s frames bad angle o) (room : s.HasRoom frames bad) (fails : ¬angle) :
    o = .refused .nonFiniteInstallOffset := by
  cases h with
  | completes _ serves => exact absurd serves fails
  | overflows full => exact absurd room full
  | angleFails => rfl

theorem refused_either (h : Counted s frames bad angle o) (full : ¬s.HasRoom frames bad) :
    o = .refused .counterOverflow ∨ o = .refused .nonFiniteInstallOffset := by
  cases h with
  | completes room => exact absurd room full
  | overflows => exact .inl rfl
  | angleFails => exact .inr rfl

/-! ### The operations of a cycle -/

theorem bumpParsed (s : State) : Counted s 1 0 True (bumpParsed s) := by
  unfold Machine.bumpParsed
  split
  next h => exact .completes ⟨.inr h, .inl rfl⟩ trivial rfl rfl rfl rfl
  next h => exact .overflows fun room => h (room.1.resolve_left Nat.one_ne_zero)

theorem bumpBad (s : State) : Counted s 0 1 True (bumpBad s) := by
  unfold Machine.bumpBad
  split
  next h => exact .completes ⟨.inl rfl, .inr h⟩ trivial rfl rfl rfl rfl
  next h => exact .overflows fun room => h (room.2.resolve_left Nat.one_ne_zero)

theorem advanceBy {n : Nat} (h : n ≤ s.unread) : Counted s 0 0 True (advanceBy n s) :=
  advanceBy_of_le h ▸ of_silent ⟨rfl, rfl, rfl, rfl⟩

theorem applySkip (hu : 1 ≤ s.unread) (counted : Bool) : Counted s 0 counted.toNat True (applySkip counted s) :=
  (advanceBy hu).silentThen fun _ _ _ _ => by
    cases counted with
    | true => exact (bumpBad _).thenSilent fun _ => ⟨rfl, rfl, rfl, rfl⟩
    | false => exact of_silent ⟨rfl, rfl, rfl, rfl⟩

/-- Only a present single target needs the angle (R129, R130). -/
theorem extractInto_single (f : List Byte) (s : State) :
    Counted s 0 0
      ((∃ deg, s.installOffsetDeg = .finite deg) ∨ decodeBlock s.params.presentOnRaw f TargetIdx.t1.blkOff = none)
      (extractInto .single f s) := by
  unfold extractInto
  obtain ⟨t, ht, serves⟩ | ⟨ht, fails⟩ := extractSingle_cases s.params.presentOnRaw f s.installOffsetDeg <;> rw [ht]
  · exact .completes ⟨.inl rfl, .inl rfl⟩ serves (by simp) (by simp) (by simp) (by simp)
  · exact .angleFails fails

theorem extractInto_multi (f : List Byte) (s : State) : Counted s 0 0 True (extractInto .multi f s) :=
  of_silent ⟨by simp, by simp, by simp, by simp⟩

/-- A frame counts once, and needs the angle where its extraction does (R133, R147). -/
theorem deliverFrame {kind : FrameKind} {f : List Byte} (hu : kind.len ≤ s.unread)
    (hextract : ∀ {m : State}, m.params = s.params → m.installOffsetDeg = s.installOffsetDeg →
      Counted m 0 0 angle (extractInto kind f m)) :
    Counted s 1 0 angle (deliverFrame kind f s) :=
  (advanceBy hu).silentThen fun _ _ hparams hangle => by
    simpa using (hextract hparams hangle).andThen fun m _ _ _ =>
      (bumpParsed (Machine.stampLastSeen m)).congr (s := m) ⟨rfl, rfl, rfl, rfl⟩

/-! ### The rows and the cycle -/

theorem multi (hu : 30 ≤ s.unread) (b1 b2 b3 : Block) : Counted s 1 0 True (exec (.multi b1 b2 b3) s) :=
  deliverFrame (kind := .multi) hu fun _ _ => extractInto_multi _ _

theorem single (hu : 14 ≤ s.unread) (b : Block) :
    Counted s 1 0 ((∃ deg, s.installOffsetDeg = .finite deg) ∨ targetOf s.params.presentOnRaw b.x b.y b.v = none)
      (exec (.single b) s) := by
  refine deliverFrame (kind := .single) hu fun {m} hparams hangle => ?_
  have h := extractInto_single (encode (.single b)) m
  rwa [TargetIdx.blkOff, decodeBlock_encode_single, hparams, hangle] at h

/-- A row whose bytes are unread counts as the row it is. -/
theorem row {i : Instr} (hi : i.isOp = false) (hu : (encode i).length ≤ s.unread) :
    Counted s (framesIn [i]) ([i].count .corruptByte) (s.AngleServes [i]) (exec i s) := by
  cases i with
  | multi b1 b2 b3 =>
    simpa [framesIn, State.AngleServes, encode_multi_length] using multi (encode_multi_length b1 b2 b3 ▸ hu) b1 b2 b3
  | single b => simpa [framesIn, State.AngleServes, encode_single_length] using single (encode_single_length b ▸ hu) b
  | corruptByte => simpa [framesIn, State.AngleServes] using! applySkip hu true
  | garbageByte b => simpa [framesIn, State.AngleServes] using! applySkip hu false
  | _ => cases hi

/-- A drain loop counts what its rows are, one row after another (R147). -/
theorem drain {rows : List Instr} (hrows : rowsOf s.view = rows) :
    Counted s (framesIn rows) (rows.count .corruptByte) (s.AngleServes rows) (drain s) := by
  induction rows generalizing s with
  | nil =>
    rw [drain_of_rowsOf_nil hrows]
    exact .completes ⟨.inl rfl, .inl rfl⟩ (.inr (by simp)) rfl rfl rfl rfl
  | cons i rows ih =>
    obtain ⟨hi, htail⟩ := decodeFrame_of_rowsOf_cons hrows
    have hop := isOp_of_decodeFrame hi
    have hu : (encode i).length ≤ s.unread := unread_eq_view_length s ▸ (encode_length_of_decodeFrame hi).2
    rw [drain_of_row hi, angleServes_cons, ← List.singleton_append, framesIn, List.countP_append, List.count_append]
    refine (row hop hu).andThen fun _ hm hparams hangle => ?_
    rw [← State.AngleServes.congr hparams hangle]
    exact ih ((Consumes.row hop hm).view ▸ htail)

theorem enforceCapacity (max : Nat) (s : State) :
    Counted s 0 (if max < s.len then 1 else 0) True (enforceCapacity max s) := by
  unfold Machine.enforceCapacity
  split
  · have hbump := (bumpBad (dropFront (evicted max s) s)).congr (s := s) ⟨rfl, rfl, rfl, rfl⟩
    exact hbump.thenSilent fun _ => ⟨rfl, rfl, rfl, rfl⟩
  · exact of_silent ⟨rfl, rfl, rfl, rfl⟩

/-- From the drain loop on a cycle counts what the rows of its unread bytes are (R145 lines 3 to 16). -/
theorem afterCapacity {rows : List Instr} (hrows : rowsOf s.view = rows) :
    Counted s (framesIn rows) (rows.count .corruptByte) (s.AngleServes rows)
      (Machine.andThen (Machine.drain (Machine.clearTargets s)) fun m =>
        .next (sampleDuration (samplePending (compact m)))) :=
  ((drain (s := Machine.clearTargets s) hrows).congr (s := s) ⟨rfl, rfl, rfl, rfl⟩).thenSilent fun m =>
    ⟨by simp, by simp, by simp, by simp⟩

/-- A cycle whose chunk fits the physical store counts what it meets (R145). -/
theorem decodeCycle (hfits : s.params.fits (s.len + s.rx.length) = true) :
    Counted s s.cycleFrames s.cycleBad s.CycleAngleUsable (decodeCycle s) := by
  obtain ⟨a, ha, hlen, hsame, hview⟩ : ∃ a, Machine.ingest s = .next a ∧ a.len = s.len + s.rx.length ∧ SameCounts s a ∧
      a.view = (s.buf ++ s.rx).drop s.cursor :=
    ⟨_, ingest_eq_next.2 ⟨hfits, rfl⟩, List.length_append, ⟨rfl, rfl, rfl, rfl⟩, rfl⟩
  have hcycle : Counted s (0 + s.cycleFrames)
      ((if Config.MAX_LEN < a.len then 1 else 0) + s.cycleRows.count .corruptByte) (True ∧ s.CycleAngleUsable)
      (Machine.decodeCycle s) := by
    rw [Machine.decodeCycle, ha, andThen_next]
    refine ((enforceCapacity Config.MAX_LEN a).congr hsame).andThen fun m hm hparams hangle => ?_
    rw [cycleAngleUsable_iff, ← State.AngleServes.congr hparams hangle]
    exact afterCapacity (congrArg rowsOf ((view_enforceCapacity hm).trans hview))
  rwa [hlen, Nat.zero_add, Nat.add_comm, true_and] at hcycle

end Counted

theorem decodeCycle_of_not_fits {s : State} (h : s.params.fits (s.len + s.rx.length) = false) :
    decodeCycle s = .refused .physCapExceeded := by
  rw [decodeCycle, ingest_eq, h]
  rfl

/-- Settles O60: INGEST's refusal, and what a cycle that gets past it counts. -/
theorem decodeCycleStops : Obligations.DecodeCycleStops := by
  intro s
  rw [cycleHasRoom_iff]
  refine ⟨decodeCycle_of_not_fits, fun h full serves => ?_, fun h room fails => ?_, fun h full _ => ?_⟩
  · exact (Counted.decodeCycle h).refused_overflow full serves
  · exact (Counted.decodeCycle h).refused_angle room fails
  · exact (Counted.decodeCycle h).refused_either full

/-! ### Rows without their bytes or without room (R74, D6) -/

theorem deliverFrame_of_lt {kind : FrameKind} {s : State} (h : s.unread < kind.len) (f : List Byte) :
    deliverFrame kind f s = .refused .advancePastEnd := by
  rw [deliverFrame, advanceBy_of_lt h, andThen_refused]

theorem applySkip_of_lt {s : State} (h : s.unread < 1) (counted : Bool) :
    applySkip counted s = .refused .advancePastEnd := by
  rw [applySkip, advanceBy_of_lt h, andThen_refused]

theorem not_hasRoom_of_parsed_full {s : State} (h : s.params.counts (s.framesParsed + 1) = false) : ¬s.HasRoom 1 0 := by
  simp [State.HasRoom, h]

/-- Settles O39: ADVANCE comes first in every row; a frame that gets past it counts one frame. -/
theorem frameRowsStop : Obligations.FrameRowsStop := by
  intro s b1 b2 b3 b
  refine ⟨?_, ?_, ?_, ?_, ?_⟩
  · exact fun h => deliverFrame_of_lt (kind := .multi) h _
  · exact fun h => deliverFrame_of_lt (kind := .single) h _
  · exact fun h => ⟨applySkip_of_lt h true, applySkip_of_lt h false⟩
  · exact fun hu hfull => (Counted.multi hu b1 b2 b3).refused_overflow (not_hasRoom_of_parsed_full hfull) trivial
  · exact fun hu hfull h => (Counted.single hu b1).refused_overflow (not_hasRoom_of_parsed_full hfull) h.symm

end Sys2Proof.Machine
end

section
/-! PROOFS. The frame synchronizer (41_frame_synchronizer.md): the verdict as the ordered tests on the bytes at CURSOR, the
named states, the skips, and where a drain loop over garbage goes and where any drain loop ends. -/

namespace Sys2Proof.Machine

/-! ### The bytes a classification reads (R90, R91) -/

theorem take_succ_eq_cons {α : Type} {l p : List α} {a : α} {n : Nat} :
    l.take (n + 1) = a :: p ↔ l[0]? = some a ∧ (l.drop 1).take n = p := by
  cases l <;> simp

theorem headerHere_iff (s : State) : s.headerHere ↔ s.view.take 4 = [0xAA, 0xFF, 0x03, 0x00] := by
  simp only [State.headerHere, State.windowByte, readByte_window]
  simp [take_succ_eq_cons]

theorem trailerHere_iff (s : State) (k : Nat) : s.trailerHere k ↔ (s.view.drop k).take 2 = [0x55, 0xCC] := by
  simp only [State.trailerHere, State.windowByte, readByte_window]
  simp [take_succ_eq_cons]

/-- The ordered tests of R91, on the bytes at CURSOR. -/
theorem verdict_eq (s : State) :
    s.verdict =
      if s.unread < 14 then .needMore
      else if ¬s.headerHere then .skip1 false
      else if 30 ≤ s.unread ∧ s.trailerHere 28 then .frame .multi
      else if s.trailerHere 12 then .frame .single
      else if 30 ≤ s.unread then .skip1 true
      else .needMore := by
  have hheader : bytesAt s.window 0 4 = Config.HDR ↔ s.headerHere := by
    rw [bytesAt_window (by decide), headerHere_iff]
    rfl
  have htrailer (k : Nat) (hk : k + 2 ≤ 30) : bytesAt s.window k 2 = Config.TRL ↔ s.trailerHere k := by
    rw [bytesAt_window hk, trailerHere_iff]
    rfl
  simp only [State.verdict, syncClassify, ne_eq, hheader, htrailer 28 (by decide), htrailer 12 (by decide)]
  by_cases hU : s.unread < 14
  · rw [if_pos hU, if_pos hU]
  · have h14 : 14 ≤ s.unread := Nat.not_lt.1 hU
    simp only [h14, true_and]

section Verdict

variable {s : State}

theorem verdict_of_short (hU : s.unread < 14) : s.verdict = .needMore := by
  rw [verdict_eq, if_pos hU]

theorem verdict_of_no_header (hU : 14 ≤ s.unread) (hH : ¬s.headerHere) : s.verdict = .skip1 false := by
  rw [verdict_eq, if_neg (Nat.not_lt.2 hU), if_pos hH]

theorem verdict_of_header (hU : 14 ≤ s.unread) (hH : s.headerHere) :
    s.verdict =
      if 30 ≤ s.unread ∧ s.trailerHere 28 then .frame .multi
      else if s.trailerHere 12 then .frame .single
      else if 30 ≤ s.unread then .skip1 true
      else .needMore := by
  rw [verdict_eq, if_neg (Nat.not_lt.2 hU), if_neg (not_not_intro hH)]

theorem verdict_of_multi (hU : 30 ≤ s.unread) (hH : s.headerHere) (h28 : s.trailerHere 28) :
    s.verdict = .frame .multi := by
  rw [verdict_of_header (by omega) hH, if_pos ⟨hU, h28⟩]

theorem verdict_of_single (hU : 14 ≤ s.unread) (hH : s.headerHere) (hM : ¬(30 ≤ s.unread ∧ s.trailerHere 28))
    (h12 : s.trailerHere 12) : s.verdict = .frame .single := by
  rw [verdict_of_header hU hH, if_neg hM, if_pos h12]

theorem verdict_of_corrupt (hU : 30 ≤ s.unread) (hH : s.headerHere) (h28 : ¬s.trailerHere 28)
    (h12 : ¬s.trailerHere 12) : s.verdict = .skip1 true := by
  rw [verdict_of_header (by omega) hH, if_neg (fun h => h28 h.2), if_neg h12, if_pos hU]

theorem verdict_of_incomplete (hU : 14 ≤ s.unread) (hU' : s.unread < 30) (hH : s.headerHere)
    (h12 : ¬s.trailerHere 12) : s.verdict = .needMore := by
  rw [verdict_of_header hU hH, if_neg (fun h => Nat.not_le.2 hU' h.1), if_neg h12, if_neg (Nat.not_le.2 hU')]

end Verdict

theorem exec_syncClassify (s : State) : exec .syncClassify s = .next { s with result := .verdict s.verdict } := rfl

/-- Settles O23: a lemma of the ordered tests for each clause. -/
theorem syncClassifyLineByLine : Obligations.SyncClassifyLineByLine :=
  fun s => ⟨s.verdict, exec_syncClassify s, verdict_of_short, verdict_of_no_header, verdict_of_multi, verdict_of_single,
    verdict_of_corrupt, verdict_of_incomplete⟩

/-- Settles O24: the multi test comes first, and needs 30 bytes. -/
theorem multiFrameTakesPrecedence : Obligations.MultiFrameTakesPrecedence := by
  intro s hH h12
  refine ⟨fun hU h28 => ?_, fun hU hU' => ?_⟩
  · rw [exec_syncClassify, verdict_of_multi hU hH h28]
  · rw [exec_syncClassify, verdict_of_single hU hH (fun h => Nat.not_le.2 hU' h.1) h12]

/-! ### The named states of one classification (R92) -/

/-- Where a path ends, by the verdict it comes to (R92). -/
def Verdict.endState : Verdict → SyncState
  | .needMore => .needMore
  | .skip1 _ => .garbage
  | .frame kind => .frameReady kind

theorem syncPath_of_short {U : Nat} (w : List Byte) (hU : U < 14) : syncPath U w = [.scanning, .needMore] := if_pos hU

theorem syncPath_of_no_header {U : Nat} {w : List Byte} (hU : 14 ≤ U) (hH : bytesAt w 0 4 ≠ Config.HDR) :
    syncPath U w = [.scanning, .garbage] := by
  rw [syncPath, if_neg (Nat.not_lt.2 hU), if_pos hH]

theorem syncPath_of_header {U : Nat} {w : List Byte} {v : Verdict} (hU : 14 ≤ U) (hH : bytesAt w 0 4 = Config.HDR)
    (hv : syncClassify U w = v) : syncPath U w = [.scanning, .headerFound, v.endState] := by
  rw [syncPath, if_neg (Nat.not_lt.2 hU), if_neg (not_not_intro hH), hv]
  cases v <;> rfl

/-- Settles O25: the path is short, without a header, or ended by the verdict after one. -/
theorem namedStatesPath : Obligations.NamedStatesPath := by
  intro U w
  obtain ⟨hU, hv⟩ | ⟨hU, hH, hv⟩ | ⟨hU, hH, -, hv⟩ | ⟨hU, hH, -, -, hv⟩ | ⟨hU, hH, -, -, hv⟩ | ⟨hU, -, hH, -, hv⟩ :=
    syncClassify_cases U w
  · exact .inl ⟨syncPath_of_short w hU, hv⟩
  · exact .inr (.inl ⟨syncPath_of_no_header hU hH, hv⟩)
  · exact .inr (.inr (.inl ⟨_, syncPath_of_header (by omega) hH hv, hv⟩))
  · exact .inr (.inr (.inl ⟨_, syncPath_of_header hU hH hv, hv⟩))
  · exact .inr (.inr (.inr (.inl ⟨syncPath_of_header (by omega) hH hv, hv⟩)))
  · exact .inr (.inr (.inr (.inr ⟨syncPath_of_header hU hH hv, hv⟩)))

/-! ### The two skips (R91, R95) -/

theorem applySkip_of_desync {s : State} (hu : 1 ≤ s.unread) :
    applySkip false s = .next { s with cursor := s.cursor + 1, events := .desync :: s.events } :=
  applySkip_eq_next.2 ⟨hu, rfl⟩

theorem applySkip_of_corrupt {s : State} (hu : 1 ≤ s.unread) (hc : s.params.counts (s.framesBad + 1) = true) :
    applySkip true s = .next { s with
      cursor := s.cursor + 1
      framesBad := s.framesBad + 1
      events := .corruptHeader :: s.events } :=
  applySkip_eq_next.2 ⟨hu, hc, rfl⟩

theorem applySkip_of_full {s : State} (hu : 1 ≤ s.unread) (hc : s.params.counts (s.framesBad + 1) = false) :
    applySkip true s = .refused .counterOverflow := by
  simp [applySkip, advanceBy_of_le hu, bumpBad, hc]

/-- Settles O28: the skip by its kind, and by the room for the counted one (D6). -/
theorem skipsAdvanceOneByte : Obligations.SkipsAdvanceOneByte :=
  fun _ _ hu => ⟨applySkip_of_desync hu, applySkip_of_corrupt hu, applySkip_of_full hu⟩

/-! ### The drain loop's end (R96, R97) -/

/-- Settles O49: the session's own fuel is above the bound too. -/
theorem drainLoopBound : Obligations.DrainLoopBound :=
  fun _ _ hn => drainLoop_fuel hn (by omega)

/-- A verdict depends on the unread bytes alone (R98). -/
theorem verdict_of_view_eq {s t : State} (h : t.view = s.view) : t.verdict = s.verdict := by
  rw [State.verdict, State.verdict, State.window, State.window, unread_eq_view_length, unread_eq_view_length, h]

theorem decodeCycle_ends_waiting {s t : State} (h : decodeCycle s = .next t) : t.verdict = .needMore := by
  obtain ⟨a, b, c, -, -, hc, rfl⟩ := decodeCycle_eq_next.1 h
  exact (verdict_of_view_eq (view_compact c)).trans (drain_ends_waiting hc)

/-- A verdict that waits says what stands at CURSOR (R97). -/
theorem waiting_of_verdict_needMore {s : State} (h : s.verdict = .needMore) :
    s.unread < 14 ∨ (14 ≤ s.unread ∧ s.unread < 30 ∧ s.headerHere ∧ ¬s.trailerHere 12) := by
  rw [verdict_eq] at h
  split_ifs at h with hU hH hM h12 h30
  · exact .inl hU
  · exact .inr ⟨Nat.not_lt.1 hU, Nat.not_le.1 h30, hH, h12⟩

/-- Settles O45: what stands at CURSOR where the loop ended still stands there after COMPACT and the samples. -/
theorem cycleEndsWaiting : Obligations.CycleEndsWaiting :=
  fun _ _ _ h => waiting_of_verdict_needMore (decodeCycle_ends_waiting h)

/-! ### Resynchronisation (R94) -/

/-- One garbage byte at the front of a drain loop is one step. -/
theorem step_of_garbage {s : State} {rest : List Task} (hag : s.agenda = .drain :: rest) (hU : 14 ≤ s.view.length)
    (hH : s.view.take 4 ≠ [0xAA, 0xFF, 0x03, 0x00]) :
    step s = .next { s with cursor := s.cursor + 1, events := .desync :: s.events } := by
  rw [step_of_drain_row hag (decodeFrame_of_garbage hU hH)]
  exact applySkip_of_desync (unread_eq_view_length s ▸ (by omega : 1 ≤ s.view.length))

/-- Settles O26: by induction on the garbage, a byte a step. -/
theorem resynchronisesOverGarbage : Obligations.ResynchronisesOverGarbage := by
  intro s g w rest hag hview hw hg
  induction g generalizing s with
  | nil => exact ⟨.here s, hview⟩
  | cons b g ih =>
    have hlen : 14 ≤ s.view.length := by
      rw [hview, List.length_append, List.length_cons]
      omega
    have hstep := step_of_garbage hag hlen (hview ▸ hg 0 (Nat.succ_pos _))
    have hview' := (view_advanced s 1).trans (congrArg (List.drop 1) hview)
    obtain ⟨hrun, hend⟩ := ih { s with cursor := s.cursor + 1, events := .desync :: s.events } hag hview'
      fun k hk => hg (k + 1) (Nat.succ_lt_succ hk)
    have hcursor : s.cursor + 1 + g.length = s.cursor + (b :: g).length := Nat.succ_add_eq_add_succ _ _
    have hevents : List.replicate g.length Event.desync ++ .desync :: s.events =
        List.replicate (b :: g).length .desync ++ s.events := by
      simp [List.replicate_succ']
    rw [hcursor, hevents] at hrun
    exact ⟨.more hstep hrun, hcursor ▸ hend⟩

end Sys2Proof.Machine
end

section
/-! PROOFS. A multi frame that arrives in two parts (41_frame_synchronizer.md R98; 95_test_vectors.md E8): cut anywhere it
waits; whole it is delivered; and below the capacity ceiling a cycle is its drain loop. -/

namespace Sys2Proof

/-! ### A multi frame cut short (R98) -/

theorem take_four_encode_multi (b1 b2 b3 : Block) : (encode (.multi b1 b2 b3)).take 4 = [0xAA, 0xFF, 0x03, 0x00] := rfl

/-- Where a single frame has its trailer, a multi frame has the x word of its second block. -/
theorem bytes_twelve_encode_multi (b1 b2 b3 : Block) : ((encode (.multi b1 b2 b3)).drop 12).take 2 = wordBytes b2.x := by
  have hfront : (Config.HDR ++ b1.bytes).length = 12 := by simp
  have hsplit : encode (.multi b1 b2 b3) =
      (Config.HDR ++ b1.bytes) ++ (wordBytes b2.x ++ (wordBytes b2.y ++ wordBytes b2.v ++ [b2.pad0, b2.pad1] ++ b3.bytes ++
        Config.TRL)) := by
    simp [encode, Block.bytes]
  rw [hsplit, ← hfront, List.drop_left, ← wordBytes_length b2.x, List.take_left]

theorem wordBytes_eq_trailer_iff (x : U16) : wordBytes x = [0x55, 0xCC] ↔ x = 0xCC55 := by
  constructor
  · intro h
    rw [← ofNat_leValue_wordBytes x, h]
    rfl
  · rintro rfl
    rfl

/-- Cut anywhere, a multi frame without a trailer at 12 waits for the rest (R98). -/
theorem decodeFrame_take_encode_multi {b1 b2 b3 : Block} {k : Nat} (hx : b2.x ≠ 0xCC55) (hk : k < 30) :
    decodeFrame ((encode (.multi b1 b2 b3)).take k) = .error .needMore := by
  have hlen : ((encode (.multi b1 b2 b3)).take k).length = k := by
    rw [List.length_take, encode_multi_length]
    omega
  by_cases h14 : k < 14
  · exact decodeFrame_of_short (by omega)
  · refine decodeFrame_of_incomplete (by omega) ?_ ?_
    · rw [List.take_take, Nat.min_eq_left (by omega), take_four_encode_multi]
    · rw [List.drop_take, List.take_take, Nat.min_eq_left (by omega), bytes_twelve_encode_multi]
      exact mt (wordBytes_eq_trailer_iff b2.x).1 hx

end Sys2Proof

namespace Sys2Proof.Machine

/-! ### A multi frame delivered whole (R129, R147) -/

theorem storeTarget_slot (j k : TargetIdx) (t : Slot) (s : State) :
    (storeTarget j t s).slot k = if k = j then t.or (s.slot j) else s.slot k := by
  cases t with
  | none =>
    split
    next h => subst h; rfl
    next => rfl
  | some r => exact setSlot_slot j k (some r) s

theorem storeTargets_slot (ts : Slots) (s : State) :
    (storeTargets ts s).slot .t1 = ts.s1.or (s.slot .t1) ∧ (storeTargets ts s).slot .t2 = ts.s2.or (s.slot .t2) ∧
      (storeTargets ts s).slot .t3 = ts.s3.or (s.slot .t3) := by
  simp [storeTargets, storeTarget_slot]

/-- What a multi frame of these blocks leaves (R129, R133, R134, R147). -/
def State.multiDelivered (b1 b2 b3 : Block) (s : State) : State :=
  { stampLastSeen (storeTargets
      { s1 := targetOf s.params.presentOnRaw b1.x b1.y b1.v
        s2 := targetOf s.params.presentOnRaw b2.x b2.y b2.v
        s3 := targetOf s.params.presentOnRaw b3.x b3.y b3.v }
      { s with cursor := s.cursor + 30 }) with framesParsed := s.framesParsed + 1 }

theorem exec_multi {s : State} (b1 b2 b3 : Block) (hu : 30 ≤ s.unread)
    (hc : s.params.counts (s.framesParsed + 1) = true) :
    exec (.multi b1 b2 b3) s = .next (s.multiDelivered b1 b2 b3) := by
  refine deliverFrame_eq_next.2 ⟨hu, _, rfl, by simpa using hc, ?_⟩
  simp [State.multiDelivered, extractMulti_encode, FrameKind.len, Config.LEN_MULTI]

@[simp] theorem multiDelivered_framesParsed (b1 b2 b3 : Block) (s : State) :
    (s.multiDelivered b1 b2 b3).framesParsed = s.framesParsed + 1 := rfl

@[simp] theorem multiDelivered_framesBad (b1 b2 b3 : Block) (s : State) :
    (s.multiDelivered b1 b2 b3).framesBad = s.framesBad := by
  simp [State.multiDelivered]

@[simp] theorem view_multiDelivered (b1 b2 b3 : Block) (s : State) :
    (s.multiDelivered b1 b2 b3).view = s.view.drop 30 := by
  simp [State.multiDelivered, State.view]

/-- Into cleared slots go the three targets as decoded (R134, R146). -/
theorem multiDelivered_slot {b1 b2 b3 : Block} {s : State} (hclear : ∀ j, s.slot j = none) :
    (s.multiDelivered b1 b2 b3).slot .t1 = targetOf s.params.presentOnRaw b1.x b1.y b1.v ∧
      (s.multiDelivered b1 b2 b3).slot .t2 = targetOf s.params.presentOnRaw b2.x b2.y b2.v ∧
      (s.multiDelivered b1 b2 b3).slot .t3 = targetOf s.params.presentOnRaw b3.x b3.y b3.v := by
  obtain ⟨h1, h2, h3⟩ := storeTargets_slot
    { s1 := targetOf s.params.presentOnRaw b1.x b1.y b1.v
      s2 := targetOf s.params.presentOnRaw b2.x b2.y b2.v
      s3 := targetOf s.params.presentOnRaw b3.x b3.y b3.v } { s with cursor := s.cursor + 30 }
  have hnone (j : TargetIdx) : ({ s with cursor := s.cursor + 30 } : State).slot j = none := hclear j
  rw [hnone, Option.or_none] at h1 h2 h3
  exact ⟨h1, h2, h3⟩

/-- Unread bytes that are one multi frame: the loop delivers it and waits (R96, R147). -/
theorem drain_of_multi {s : State} {b1 b2 b3 : Block} (hview : s.view = encode (.multi b1 b2 b3))
    (hc : s.params.counts (s.framesParsed + 1) = true) :
    drain s = .next (recordEvent .incomplete (s.multiDelivered b1 b2 b3)) := by
  have hlen : s.view.length = 30 := by rw [hview, encode_multi_length]
  have hrow : decodeFrame s.view = .ok (.multi b1 b2 b3) := by
    simpa [hview] using decodeFrame_encode_multi b1 b2 b3 []
  have hrest : decodeFrame (s.multiDelivered b1 b2 b3).view = .error .needMore :=
    decodeFrame_of_short (by simp [hlen])
  rw [drain_of_row hrow, exec_multi b1 b2 b3 (by rw [unread_eq_view_length, hlen]) hc, andThen_next, drain_of_wait hrest]

/-! ### A cycle below the capacity ceiling (R145) -/

/-- The state in which a cycle that evicts nothing starts its drain loop: all of RX ingested, the targets cleared. -/
def State.atDrain (s : State) : State := clearTargets { s with buf := s.buf ++ s.rx, rx := [] }

theorem view_atDrain {s : State} (hs : s.cursor ≤ s.len) : s.atDrain.view = s.pendingStream :=
  List.drop_append_of_le_length hs

theorem atDrain_slot (s : State) (j : TargetIdx) : s.atDrain.slot j = none := by cases j <;> rfl

/-- Lines 14 to 16 of R145: COMPACT and the two samples. -/
def State.closeCycle (s : State) : State := sampleDuration (samplePending (compact s))

@[simp] theorem view_closeCycle (s : State) : s.closeCycle.view = s.view := view_compact s

@[simp] theorem closeCycle_framesParsed (s : State) : s.closeCycle.framesParsed = s.framesParsed := by
  simp [State.closeCycle]

@[simp] theorem closeCycle_framesBad (s : State) : s.closeCycle.framesBad = s.framesBad := by simp [State.closeCycle]

@[simp] theorem closeCycle_params (s : State) : s.closeCycle.params = s.params := by simp [State.closeCycle]

@[simp] theorem closeCycle_rx (s : State) : s.closeCycle.rx = s.rx := by simp [State.closeCycle]

@[simp] theorem closeCycle_slot (s : State) (j : TargetIdx) : s.closeCycle.slot j = s.slot j := by
  cases j <;> simp [State.closeCycle, State.slot]

section BelowCeiling

variable {s : State} (hs : s.cursor ≤ s.len) (hfits : s.params.fits (s.len + s.rx.length) = true)
  (hlen : s.len + s.rx.length ≤ Config.MAX_LEN)

include hfits hlen in
/-- A cycle whose chunk leaves BUF at or below the ceiling is its drain loop. -/
theorem decodeCycle_of_le_ceiling {t : State} (hd : drain s.atDrain = .next t) :
    exec .decodeCycle s = .next t.closeCycle := by
  have hingest := ingest_eq_next.2 ⟨hfits, rfl⟩
  have hkept : ({ s with buf := s.buf ++ s.rx, rx := [] } : State).len ≤ Config.MAX_LEN := by
    simpa [State.len] using hlen
  exact decodeCycle_eq_next.2 ⟨_, _, t, hingest, enforceCapacity_of_le hkept, hd, rfl⟩

include hs hfits hlen

/-- A cycle that finds nothing but a frame to wait for keeps every byte and counts nothing (R98). -/
theorem decodeCycle_retains_incomplete {e : DecodeError} (hwait : decodeFrame s.pendingStream = .error e) :
    ∃ t, exec .decodeCycle s = .next t ∧ t.framesParsed = s.framesParsed ∧ t.framesBad = s.framesBad ∧
      t.view = s.pendingStream ∧ t.rx = [] ∧ t.params = s.params := by
  have hd := drain_of_wait ((view_atDrain hs).symm ▸ hwait)
  exact ⟨_, decodeCycle_of_le_ceiling hfits hlen hd, closeCycle_framesParsed _, closeCycle_framesBad _,
    (view_closeCycle _).trans (view_atDrain hs), closeCycle_rx _, closeCycle_params _⟩

/-- A cycle that finds one multi frame and nothing else parses it (R129, R147). -/
theorem decodeCycle_parses_multi {b1 b2 b3 : Block} (hc : s.params.counts (s.framesParsed + 1) = true)
    (hframe : s.pendingStream = encode (.multi b1 b2 b3)) :
    ∃ t, exec .decodeCycle s = .next t ∧ t.framesParsed = s.framesParsed + 1 ∧ t.framesBad = s.framesBad ∧
      t.view = [] ∧ t.slot .t1 = targetOf s.params.presentOnRaw b1.x b1.y b1.v ∧
      t.slot .t2 = targetOf s.params.presentOnRaw b2.x b2.y b2.v ∧
      t.slot .t3 = targetOf s.params.presentOnRaw b3.x b3.y b3.v := by
  have hview : s.atDrain.view = encode (.multi b1 b2 b3) := (view_atDrain hs).trans hframe
  obtain ⟨h1, h2, h3⟩ := multiDelivered_slot (b1 := b1) (b2 := b2) (b3 := b3) (atDrain_slot s)
  have hrest : (s.atDrain.multiDelivered b1 b2 b3).view = [] := by
    rw [view_multiDelivered, hview, List.drop_eq_nil_of_le (encode_multi_length b1 b2 b3).le]
  exact ⟨_, decodeCycle_of_le_ceiling hfits hlen (drain_of_multi hview hc), closeCycle_framesParsed _,
    (closeCycle_framesBad _).trans (multiDelivered_framesBad b1 b2 b3 _), (view_closeCycle _).trans hrest,
    (closeCycle_slot _ _).trans h1, (closeCycle_slot _ _).trans h2, (closeCycle_slot _ _).trans h3⟩

end BelowCeiling

/-! ### The two cycles of R98 -/

theorem fits_of_unbounded {p : Params} (h : p.physCap = none) (n : Nat) : p.fits n = true := by simp [Params.fits, h]

theorem counts_of_unbounded {p : Params} (h : p.ctrW = none) (n : Nat) : p.counts n = true := by
  simp [Params.counts, h]

/-- The buffer of a cycle boundary and one frame's bytes are far below the ceiling (R72, R78). -/
theorem boundary_add_frame_le_ceiling {len chunk : Nat} (hlen : len ≤ 58) (hchunk : chunk ≤ 30) :
    len + chunk ≤ Config.MAX_LEN :=
  (Nat.add_le_add hlen hchunk).trans (by decide)

/-- Settles O50: the first cycle waits on the cut frame, the second finds it whole. -/
theorem partialFrameRetention : Obligations.PartialFrameRetention := by
  intro s b1 b2 b3 k hx hk hinv hview hlen hcap hctr hrx
  have hs := hinv.cursor_le_len
  have hcut : s.pendingStream = (encode (.multi b1 b2 b3)).take k := by
    rw [State.pendingStream, hview, hrx, List.nil_append]
  have hchunk : s.rx.length ≤ 30 := by simp [hrx, encode_multi_length]
  obtain ⟨t, first, hparsed, hbad, hretained, hempty, hparams⟩ := decodeCycle_retains_incomplete hs
    (fits_of_unbounded hcap _) (boundary_add_frame_le_ceiling hlen hchunk) (hcut ▸ decodeFrame_take_encode_multi hx hk)
  rw [hcut] at hretained
  refine ⟨t, first, hparsed, hbad, hretained, ?_⟩
  obtain ⟨-, -, hlen', hs', -⟩ := cycleEndBounds s t hs first
  rw [← hparams] at hcap hctr ⊢
  rw [← hparsed, ← hbad]
  have hwhole : (t.deliver ((encode (.multi b1 b2 b3)).drop k)).pendingStream = encode (.multi b1 b2 b3) := by
    rw [State.pendingStream, deliver_rx, hempty, List.nil_append]
    exact hretained ▸ List.take_append_drop k _
  have hchunk' : (t.deliver ((encode (.multi b1 b2 b3)).drop k)).rx.length ≤ 30 := by
    simp [hempty, encode_multi_length]
  exact decodeCycle_parses_multi (s := t.deliver _) hs' (fits_of_unbounded hcap _)
    (boundary_add_frame_le_ceiling hlen' hchunk') (counts_of_unbounded hctr _) hwhole

end Sys2Proof.Machine
end

section
/-! PROOFS. The fixed-point codec (42_fixedpoint_codec.md): the value of a little-endian word, then DECODE_SIGNED as a sign
bit and a magnitude, its laws and its encoder, then the two scalings. -/

namespace Sys2Proof.Machine

/-! ### READ_U16_LE (R110) -/

/-- The sum of the two bytes never leaves 16 bits (R110). -/
theorem toNat_readU16LE {buf : List Byte} {offset : Nat} (h : offset + 2 ≤ buf.length) :
    (readU16LE buf offset).toNat = buf[offset].toNat + 256 * buf[offset + 1].toNat := by
  have hlo := buf[offset].isLt
  have hhi := buf[offset + 1].isLt
  rw [readU16LE, List.getD_eq_getElem _ _ (by omega), List.getD_eq_getElem _ _ (by omega)]
  simp only [BitVec.toNat_add, BitVec.toNat_mul, BitVec.toNat_setWidth, BitVec.toNat_ofNat]
  omega

theorem exec_readU16Le {buf : List Byte} {offset : Nat} (h : offset + 2 ≤ buf.length) (s : State) :
    exec (.readU16Le buf offset) s = .next { s with result := .u16 (readU16LE buf offset) } := if_pos h

/-- Settles O11: the two bytes are those that stand at the offset. -/
theorem readU16LittleEndian : Obligations.ReadU16LittleEndian := by
  intro s buf offset h
  exact ⟨buf[offset], buf[offset + 1], readU16LE buf offset, List.getElem?_eq_getElem _, List.getElem?_eq_getElem _,
    toNat_readU16LE h, exec_readU16Le h s⟩

/-! ### Sign bit and magnitude (R111) -/

/-- DECODE_SIGNED's two masks are the sign bit and the remainder by `2 ^ 15` (R111). -/
theorem decodeSigned_eq_msb (raw : U16) :
    decodeSigned raw =
      if raw.msb then ((raw.toNat % 2 ^ 15 : Nat) : Int) else -((raw.toNat % 2 ^ 15 : Nat) : Int) := by
  have hmagnitude : (raw &&& 0x7FFF#16).toNat = raw.toNat % 2 ^ 15 := Nat.and_two_pow_sub_one_eq_mod raw.toNat 15
  have hsign : raw &&& 0x8000#16 = if raw.msb then 0x8000#16 else 0#16 := BitVec.and_twoPow raw 15
  unfold decodeSigned
  rw [hmagnitude, hsign]
  cases raw.msb <;> rfl

/-- The same as arithmetic on the word's number (R111). -/
theorem decodeSigned_eq (raw : U16) :
    decodeSigned raw = if raw.toNat < 32768 then -(raw.toNat : Int) else (raw.toNat : Int) - 32768 := by
  have hraw := raw.isLt
  rw [decodeSigned_eq_msb, BitVec.msb_eq_decide]
  by_cases hneg : raw.toNat < 32768
  · rw [if_pos hneg, if_neg (by simpa using hneg)]
    omega
  · rw [if_neg hneg, if_pos (by simpa using hneg)]
    omega

/-- Settles O12: DECODE_SIGNED returns the decoded integer. -/
theorem decodeSignedIsInvertedSignMagnitude : Obligations.DecodeSignedIsInvertedSignMagnitude := by
  intro s raw
  rw [← decodeSigned_eq]
  rfl

/-! ### The laws of DECODE_SIGNED (R112) -/

theorem decodeSigned_mem_range (raw : U16) : -32767 ≤ decodeSigned raw ∧ decodeSigned raw ≤ 32767 := by
  have hraw := raw.isLt
  rw [decodeSigned_eq]
  split <;> omega

/-- Flipping bit 15 flips the sign and leaves the magnitude (R112). -/
theorem decodeSigned_xor_signBit (raw : U16) : decodeSigned (raw ^^^ 0x8000) = -decodeSigned raw := by
  have hsign : (raw ^^^ 0x8000).msb = !raw.msb := by
    rw [BitVec.msb_xor]
    exact Bool.xor_true _
  have hmagnitude : (raw ^^^ 0x8000).toNat % 2 ^ 15 = raw.toNat % 2 ^ 15 := by
    rw [BitVec.toNat_xor, Nat.xor_mod_two_pow]
    exact Nat.xor_zero _
  rw [decodeSigned_eq_msb, decodeSigned_eq_msb, hsign, hmagnitude]
  cases raw.msb <;> simp

theorem decodeSigned_eq_zero_iff (raw : U16) : decodeSigned raw = 0 ↔ raw = 0x0000 ∨ raw = 0x8000 := by
  rw [decodeSigned_eq, ← BitVec.toNat_inj, ← BitVec.toNat_inj]
  change _ ↔ raw.toNat = 0 ∨ raw.toNat = 32768
  split <;> omega

/-- A nonzero result shows which half of the words it came from (R112). -/
theorem decodeSigned_injective_of_ne_zero {raw raw' : U16} (h : decodeSigned raw ≠ 0)
    (heq : decodeSigned raw = decodeSigned raw') : raw = raw' := by
  have hraw := raw.isLt
  have hraw' := raw'.isLt
  apply BitVec.eq_of_toNat_eq
  rw [decodeSigned_eq] at h heq
  rw [decodeSigned_eq] at heq
  split at heq <;> split at heq <;> omega

/-- Settles O13: `0x8001` decodes to 1, where two's complement reads -32767 and its negation 32767. -/
theorem decodeSignedLaws : Obligations.DecodeSignedLaws :=
  ⟨decodeSigned_mem_range, decodeSigned_xor_signBit, decodeSigned_eq_zero_iff, ⟨0x8001, by decide⟩,
    fun _ _ => decodeSigned_injective_of_ne_zero⟩

/-! ### The encoder (R55, R115) -/

/-- What `sm` writes, as a number: the magnitude, with bit 15 set where the integer is positive (R115). -/
theorem toNat_sm {n : Int} (h : -32767 ≤ n ∧ n ≤ 32767) :
    (sm n).toNat = if 0 < n then 32768 + n.toNat else n.natAbs := by
  unfold sm
  split
  · rw [BitVec.toNat_add, BitVec.toNat_ofNat, BitVec.toNat_ofNat]
    omega
  · rw [BitVec.toNat_ofNat]
    omega

theorem decodeSigned_sm {n : Int} (h : -32767 ≤ n ∧ n ≤ 32767) : decodeSigned (sm n) = n := by
  rw [decodeSigned_eq, toNat_sm h]
  by_cases hpos : 0 < n
  · rw [if_pos hpos, if_neg (by omega)]
    omega
  · rw [if_neg hpos, if_pos (by omega)]
    omega

/-- Off the zeros DECODE_SIGNED is injective, so its right inverse is a left inverse (R112, R115). -/
theorem sm_decodeSigned {raw : U16} (h : decodeSigned raw ≠ 0) : sm (decodeSigned raw) = raw :=
  (decodeSigned_injective_of_ne_zero h (decodeSigned_sm (decodeSigned_mem_range raw)).symm).symm

/-- Settles O14: `sm` is a right inverse on the range, hence a left inverse off the zeros. -/
theorem signedEncoderInverse : Obligations.SignedEncoderInverse :=
  ⟨fun _ hlo hhi => decodeSigned_sm ⟨hlo, hhi⟩, fun _ => sm_decodeSigned⟩

/-! ### Scaling (R113, R114) -/

/-- Whatever the free value and the divisor, a decoded integer scales to its exact quotient, within the scaled bounds
(R113, R114, R116). -/
theorem scaled_exact_and_bounded {n : Int} (h : -32767 ≤ n ∧ n ≤ 32767) {d : F} (hd : 0 < d) (free : F) :
    scaled n (n / d) free * d = n ∧ -32767 / d ≤ scaled n (n / d) free ∧ scaled n (n / d) free ≤ 32767 / d := by
  rw [scaled_of_mem h]
  obtain ⟨hlo, hhi⟩ := h
  have hlo' : (-32767 : F) ≤ n := by exact_mod_cast hlo
  have hhi' : (n : F) ≤ 32767 := by exact_mod_cast hhi
  exact ⟨div_mul_cancel₀ _ hd.ne', div_le_div_of_nonneg_right hlo' hd.le, div_le_div_of_nonneg_right hhi' hd.le⟩

/-- Settles O15: both scalings answer on every operand, and where the rules state a result it is the quotient. -/
theorem unitScaling : Obligations.UnitScaling := by
  intro s n
  refine ⟨⟨_, rfl, fun hlo hhi => ?_⟩, _, rfl, fun hlo hhi => ?_⟩
  · exact scaled_exact_and_bounded ⟨hlo, hhi⟩ (d := 1000) (by norm_num) _
  · exact scaled_exact_and_bounded ⟨hlo, hhi⟩ (d := 100) (by norm_num) _

end Sys2Proof.Machine
end

section
/-! PROOFS. The extractor's decoding of a block (43_target_extractor.md R125, R126, R129 to R131): when three words make no
target, what each of the three operations answers, and NORMALISE. -/

namespace Sys2Proof.Machine

/-! ### Presence (R126) -/

theorem blockPresent_eq_false_iff {onRaw : Bool} {x y v : U16} :
    blockPresent onRaw x y v = false ↔
      (onRaw = false ∧ decodeSigned x = 0 ∧ decodeSigned y = 0 ∧ decodeSigned v = 0) ∨
        (onRaw = true ∧ x = 0 ∧ y = 0 ∧ v = 0) := by
  cases onRaw with
  | false => simp [blockPresent, presentOnDecoded, and_assoc]
  | true => simp [blockPresent, presentOnRawWords, and_assoc]

theorem targetOf_eq_none_iff {onRaw : Bool} {x y v : U16} :
    targetOf onRaw x y v = none ↔ blockPresent onRaw x y v = false := by
  simp [targetOf]

theorem targetOf_of_present {onRaw : Bool} {x y v : U16} (h : ¬blockPresent onRaw x y v = false) :
    targetOf onRaw x y v = some (recordOf x y v) := if_pos (Bool.of_not_eq_false h)

/-- Settles O30: a word decodes to 0 exactly when it is one of the two zeros (R112). -/
theorem absentBlocks : Obligations.AbsentBlocks := by
  intro x y v
  rw [targetOf_eq_none_iff, blockPresent_eq_false_iff]
  simp [decodeSigned_eq_zero_iff]

/-! ### The NoTarget event of an absent block (R161, R166) -/

/-- What noting block `j` adds to the event history. -/
def absentEvents (j : TargetIdx) : Slot → List Event
  | none => [.noTarget j]
  | some _ => []

theorem noteAbsent_eq (j : TargetIdx) (t : Slot) (s : State) :
    noteAbsent j t s = { s with events := absentEvents j t ++ s.events } := by
  cases t <;> rfl

/-! ### DECODE_BLOCK (R125) -/

theorem exec_decodeBlock {f : List Byte} {j : TargetIdx} (h : j.blkOff + 6 ≤ f.length) (s : State) :
    exec (.decodeBlock f j) s = .next { s with
      result := .block (decodeBlock s.params.presentOnRaw f j.blkOff)
      events := absentEvents j (decodeBlock s.params.presentOnRaw f j.blkOff) ++ s.events } := by
  refine (if_pos h).trans ?_
  simp only [noteAbsent_eq, returnValue]

/-- Settles O29: the block's target is nothing or the record of its words, as the presence test says. -/
theorem decodeBlockReadsThreeWords : Obligations.DecodeBlockReadsThreeWords := by
  intro s f j h
  rw [exec_decodeBlock h, decodeBlock]
  refine ⟨fun habsent => ?_, fun hpresent => ?_⟩
  · rw [targetOf_eq_none_iff.2 (blockPresent_eq_false_iff.2 habsent)]
    rfl
  · rw [targetOf_of_present (mt blockPresent_eq_false_iff.1 hpresent)]
    simp [recordOf, toMetres, toMps, absentEvents]

/-! ### EXTRACT_MULTI (R129) -/

/-- The answer to a 30-byte copy; the install angle stands in it only as the field the operation leaves. -/
theorem exec_extractMulti {f : List Byte} (h : f.length = 30) (s : State) :
    exec (.extractMulti f) s = .next { s with
      result := .blocks (extractMulti s.params.presentOnRaw f)
      events := absentEvents .t3 (extractMulti s.params.presentOnRaw f).s3 ++
        (absentEvents .t2 (extractMulti s.params.presentOnRaw f).s2 ++
          (absentEvents .t1 (extractMulti s.params.presentOnRaw f).s1 ++ s.events)) } := by
  refine (if_pos h).trans ?_
  simp only [noteAbsent_eq, returnValue]

/-- Settles O35: one answer under every angle. -/
theorem extractMultiThreeBlocks : Obligations.ExtractMultiThreeBlocks :=
  fun s _ h => ⟨_, exec_extractMulti h s, fun _ => exec_extractMulti h _⟩

/-! ### EXTRACT_SINGLE (R130) -/

section ExtractSingle

variable {onRaw : Bool} {f : List Byte} {t : TargetRecord}

theorem extractSingle_of_absent (h : decodeBlock onRaw f 4 = none) (angle : InstallAngle) :
    extractSingle onRaw f angle = .ok none := by
  simp [extractSingle, TargetIdx.blkOff, h]

theorem extractSingle_of_finite (h : decodeBlock onRaw f 4 = some t) (deg : F) :
    extractSingle onRaw f (.finite deg) = .ok (some { t with bearing_deg := normalise (t.bearing_deg + deg) }) := by
  simp only [extractSingle, TargetIdx.blkOff, h]
  rfl

theorem extractSingle_of_nonFinite (h : decodeBlock onRaw f 4 = some t) :
    extractSingle onRaw f .nonFinite = .error .nonFiniteInstallOffset := by
  simp only [extractSingle, TargetIdx.blkOff, h]
  rfl

end ExtractSingle

theorem exec_extractSingle_of_ok {f : List Byte} {s : State} {t : Slot} (h : f.length = 14)
    (ht : extractSingle s.params.presentOnRaw f s.installOffsetDeg = .ok t) :
    exec (.extractSingle f) s = .next { s with result := .block t, events := absentEvents .t1 t ++ s.events } := by
  refine (if_pos h).trans ?_
  simp only [ht, noteAbsent_eq, returnValue]

theorem exec_extractSingle_of_error {f : List Byte} {s : State} {r : Refusal} (h : f.length = 14)
    (hr : extractSingle s.params.presentOnRaw f s.installOffsetDeg = .error r) :
    exec (.extractSingle f) s = .refused r := by
  refine (if_pos h).trans ?_
  simp only [hr]

/-- Settles O36: the block is absent, or present under a finite angle, or under one that is none. -/
theorem extractSingleCorrectsBearing : Obligations.ExtractSingleCorrectsBearing := by
  intro s f h
  refine ⟨fun habsent => ?_, fun t deg hpresent hangle => ?_, fun t hpresent hangle => ?_⟩
  · exact exec_extractSingle_of_ok h (extractSingle_of_absent habsent _)
  · exact exec_extractSingle_of_ok h (hangle ▸ extractSingle_of_finite hpresent deg)
  · exact exec_extractSingle_of_error h (hangle ▸ extractSingle_of_nonFinite hpresent)

/-! ### NORMALISE (R131) -/

theorem normalise_of_gt {b : F} (h : 180 < b) : normalise b = b - 360 := if_pos h

theorem normalise_of_lt {b : F} (h : b < -180) : normalise b = b + 360 := by
  rw [normalise, if_neg (by linarith), if_pos h]

theorem normalise_of_mem {b : F} (hlo : -180 ≤ b) (hhi : b ≤ 180) : normalise b = b := by
  rw [normalise, if_neg hhi.not_gt, if_neg hlo.not_gt]

/-- One turn brings a sum into the interval from one turn around it, −180 itself excepted. -/
theorem normalise_mem_iff (b : F) :
    (-180 < normalise b ∧ normalise b ≤ 180) ↔ (-540 < b ∧ b ≤ 540 ∧ b ≠ -180) := by
  rcases lt_or_ge 180 b with hgt | hle
  · rw [normalise_of_gt hgt]
    constructor
    · rintro ⟨-, hhi⟩
      exact ⟨by linarith, by linarith, by linarith⟩
    · rintro ⟨-, hhi, -⟩
      exact ⟨by linarith, by linarith⟩
  rcases lt_or_ge b (-180) with hlt | hge
  · rw [normalise_of_lt hlt]
    constructor
    · rintro ⟨hlo, -⟩
      exact ⟨by linarith, by linarith, by linarith⟩
    · rintro ⟨hlo, -, -⟩
      exact ⟨by linarith, by linarith⟩
  · rw [normalise_of_mem hge hle]
    constructor
    · rintro ⟨hlo, -⟩
      exact ⟨by linarith, by linarith, hlo.ne'⟩
    · rintro ⟨-, -, hne⟩
      exact ⟨lt_of_le_of_ne hge hne.symm, hle⟩

/-- Settles O34: the three cases of NORMALISE; a raw bearing and an angle of at most one turn make such a sum. -/
theorem normaliseOneTurn : Obligations.NormaliseOneTurn := by
  refine ⟨fun b => ⟨normalise_of_gt, normalise_of_lt, normalise_of_mem, normalise_mem_iff b⟩, ?_⟩
  intro raw angle hlo hhi halo hahi hne
  exact (normalise_mem_iff _).2 ⟨by linarith, by linarith, hne⟩

end Sys2Proof.Machine
end

section
/-! PROOFS. The range as the Euclidean norm (43_target_extractor.md R127; 42_fixedpoint_codec.md R116; log entry 3): exact where
the squares' sum is a square, and near the root elsewhere. -/

namespace Sys2Proof.Machine

theorem rangeM_of_normSq_eq {x y : Int} {k : Nat} (h : normSq x y = k * k) : rangeM x y = (k : F) / 1000 := by
  simp [rangeM, h, isqrt_mul_self, Config.MM_PER_M]

theorem rangeM_of_not_square {x y : Int} (h : isqrt (normSq x y) * isqrt (normSq x y) ≠ normSq x y) :
    rangeM x y = rangeApprox (normSq x y) + boundedError storedErrorBound (Config.rangeError x y) := if_neg h

/-- A free error held within the bound, as a real number. -/
theorem boundedError_cast_abs_le (e : F) : |((boundedError storedErrorBound e : F) : ℝ)| ≤ 1001 / 1000000 := by
  have h := boundedError_abs_le (bound := storedErrorBound) (by norm_num [storedErrorBound_eq]) e
  rw [storedErrorBound_eq] at h ⊢
  have hreal : ((|boundedError (1001 / 1000000) e| : F) : ℝ) ≤ ((1001 / 1000000 : F) : ℝ) := Rat.cast_le.2 h
  simpa using hreal

theorem rangeM_near_sqrt (x y : Int) :
    |((rangeM x y : F) : ℝ) - Real.sqrt (normSq x y) / 1000| ≤ 1002 / 1000000 := by
  by_cases hsq : isqrt (normSq x y) * isqrt (normSq x y) = normSq x y
  · have hroot : Real.sqrt (normSq x y) = isqrt (normSq x y) := by
      rw [← hsq, Nat.cast_mul, Real.sqrt_mul_self (Nat.cast_nonneg _), hsq]
    rw [rangeM_of_normSq_eq hsq.symm, hroot]
    norm_num
  · obtain ⟨hle, hge⟩ := rangeApprox_bounds (normSq x y)
    have herr := abs_le.1 (boundedError_cast_abs_le (Config.rangeError x y))
    rw [rangeM_of_not_square hsq, Rat.cast_add, abs_le]
    constructor <;> linarith

/-- Settles O31: not negative, exact on squares, near the root everywhere. -/
theorem rangeIsEuclidean : Obligations.RangeIsEuclidean := by
  intro x y
  refine ⟨rangeM_nonneg x y, fun k hk => rangeM_of_normSq_eq ?_, ?_⟩
  · zify
    rw [normSq_cast, hk, pow_two]
  · have hcast : ((normSq x y : Nat) : ℝ) = (x : ℝ) ^ 2 + (y : ℝ) ^ 2 := by exact_mod_cast normSq_cast x y
    exact hcast ▸ rangeM_near_sqrt x y

end Sys2Proof.Machine
end

section
/-! PROOFS. The bearing as the angle of the point (43_target_extractor.md R128; 42_fixedpoint_codec.md R116; log entry 3): the
cases of `atan2Deg`, the angle carried from the first quadrant to the others, and how far a stored value stays from the axes. -/

namespace Sys2Proof.Machine

/-! ### The cases of the bearing -/

theorem atan2Deg_of_y_zero {x : Int} (hx : x ≠ 0) : atan2Deg 0 x = if x < 0 then 180 else 0 := by
  simp [atan2Deg, hx]

theorem atan2Deg_of_x_zero {y : Int} (hy : y ≠ 0) : atan2Deg y 0 = if y < 0 then -90 else 90 := by
  simp [atan2Deg, hy]

theorem atan2Deg_of_diagonal {x y : Int} (hx : x ≠ 0) (hy : y ≠ 0) (h : x.natAbs = y.natAbs) :
    atan2Deg y x = toQuadrant x y 45 := by
  simp [atan2Deg, hx, hy, h]

theorem atan2Deg_of_off_axes {x y : Int} (hx : x ≠ 0) (hy : y ≠ 0) (h : x.natAbs ≠ y.natAbs) :
    atan2Deg y x = bearingApprox x y + boundedError storedErrorBound (Config.bearingError x y) := by
  simp [atan2Deg, hx, hy, h]

section Quadrants

variable {x y : Int} (deg : F)

theorem toQuadrant_first (hx : 0 < x) (hy : 0 < y) : toQuadrant x y deg = deg := by
  simp [toQuadrant, hx.not_gt, hy.not_gt]

theorem toQuadrant_second (hx : x < 0) (hy : 0 < y) : toQuadrant x y deg = 180 - deg := by
  simp [toQuadrant, hx, hy.not_gt]

theorem toQuadrant_third (hx : x < 0) (hy : y < 0) : toQuadrant x y deg = deg - 180 := by
  simp [toQuadrant, hx, hy]

theorem toQuadrant_fourth (hx : 0 < x) (hy : y < 0) : toQuadrant x y deg = -deg := by
  simp [toQuadrant, hx.not_gt, hy]

end Quadrants

/-! ### The angle of a point off the axes -/

section Arg

variable {a b : ℝ}

theorem arg_right_half (ha : 0 < a) (b : ℝ) : Complex.arg ⟨a, b⟩ = Real.arctan (b / a) := by
  have h := Complex.abs_arg_lt_pi_div_two_iff.2 (Or.inl ha : 0 < (⟨a, b⟩ : ℂ).re ∨ _)
  rw [← Real.arctan_tan (abs_lt.1 h).1 (abs_lt.1 h).2, Complex.tan_arg]

theorem arg_second (ha : 0 < a) (hb : 0 < b) : Complex.arg ⟨-a, b⟩ = Real.pi - Real.arctan (b / a) := by
  have h := Complex.arg_neg_eq_arg_add_pi_of_im_neg (x := ⟨a, -b⟩) (neg_neg_of_pos hb)
  rw [arg_right_half ha, neg_div, Real.arctan_neg] at h
  rw [sub_eq_neg_add, ← h]
  congr 1
  simp [Complex.ext_iff]

theorem arg_third (ha : 0 < a) (hb : 0 < b) : Complex.arg ⟨-a, -b⟩ = Real.arctan (b / a) - Real.pi := by
  have h := Complex.arg_neg_eq_arg_sub_pi_of_im_pos (x := ⟨a, b⟩) hb
  rw [arg_right_half ha] at h
  rw [← h]
  congr 1

theorem arg_fourth (ha : 0 < a) : Complex.arg ⟨a, -b⟩ = -Real.arctan (b / a) := by
  rw [arg_right_half ha, neg_div, Real.arctan_neg]

end Arg

theorem pi_in_degrees : Real.pi * 180 / Real.pi = 180 := mul_div_cancel_left₀ _ Real.pi_ne_zero

theorem cast_eq_neg_natAbs {n : Int} (h : n < 0) : (n : ℝ) = -(n.natAbs : ℝ) := by
  rw [Nat.cast_natAbs, abs_of_neg h, Int.cast_neg, neg_neg]

theorem cast_eq_natAbs {n : Int} (h : 0 < n) : (n : ℝ) = n.natAbs := by
  rw [Nat.cast_natAbs, abs_of_pos h]

/-- What is near the angle in the first quadrant is as near in the quadrant it is carried to. -/
theorem toQuadrant_near_arg {x y : Int} (hx : x ≠ 0) (hy : y ≠ 0) {deg : F} {ε : ℝ}
    (h : |(deg : ℝ) - Real.arctan ((y.natAbs : ℝ) / x.natAbs) * 180 / Real.pi| ≤ ε) :
    |((toQuadrant x y deg : F) : ℝ) - Complex.arg ⟨(x : ℝ), (y : ℝ)⟩ * 180 / Real.pi| ≤ ε := by
  have ha : (0 : ℝ) < x.natAbs := Nat.cast_pos.2 (Int.natAbs_pos.2 hx)
  have hb : (0 : ℝ) < y.natAbs := Nat.cast_pos.2 (Int.natAbs_pos.2 hy)
  rcases hx.lt_or_gt with hx | hx <;> rcases hy.lt_or_gt with hy | hy
  · rw [toQuadrant_third _ hx hy, cast_eq_neg_natAbs hx, cast_eq_neg_natAbs hy, arg_third ha hb, sub_mul, sub_div,
      pi_in_degrees, Rat.cast_sub, Rat.cast_ofNat]
    rwa [sub_sub_sub_cancel_right]
  · rw [toQuadrant_second _ hx hy, cast_eq_neg_natAbs hx, cast_eq_natAbs hy, arg_second ha hb, sub_mul, sub_div,
      pi_in_degrees, Rat.cast_sub, Rat.cast_ofNat]
    rwa [sub_sub_sub_cancel_left, abs_sub_comm]
  · rw [toQuadrant_fourth _ hx hy, cast_eq_natAbs hx, cast_eq_neg_natAbs hy, arg_fourth ha, neg_mul, neg_div, Rat.cast_neg]
    rwa [neg_sub_neg, abs_sub_comm]
  · rwa [toQuadrant_first _ hx hy, cast_eq_natAbs hx, cast_eq_natAbs hy, arg_right_half ha]

/-! ### The bearing is the angle -/

theorem atan2Deg_eq_arg_of_y_zero {x : Int} (hx : x ≠ 0) :
    ((atan2Deg 0 x : F) : ℝ) = Complex.arg ⟨(x : ℝ), ((0 : Int) : ℝ)⟩ * 180 / Real.pi := by
  rw [atan2Deg_of_y_zero hx]
  rcases hx.lt_or_gt with hneg | hpos
  · rw [if_pos hneg, Complex.arg_eq_pi_iff.2 ⟨Int.cast_lt_zero.2 hneg, Int.cast_zero⟩, pi_in_degrees]
    norm_num
  · rw [if_neg hpos.not_gt, Complex.arg_eq_zero_iff.2 ⟨(Int.cast_pos.2 hpos).le, Int.cast_zero⟩]
    norm_num

theorem half_pi_in_degrees : Real.pi / 2 * 180 / Real.pi = 90 := by
  have := Real.pi_ne_zero
  field_simp
  norm_num

theorem atan2Deg_eq_arg_of_x_zero {y : Int} (hy : y ≠ 0) :
    ((atan2Deg y 0 : F) : ℝ) = Complex.arg ⟨((0 : Int) : ℝ), (y : ℝ)⟩ * 180 / Real.pi := by
  rw [atan2Deg_of_x_zero hy]
  rcases hy.lt_or_gt with hneg | hpos
  · rw [if_pos hneg, Complex.arg_eq_neg_pi_div_two_iff.2 ⟨Int.cast_zero, Int.cast_lt_zero.2 hneg⟩, neg_mul, neg_div,
      half_pi_in_degrees]
    norm_num
  · rw [if_neg hpos.not_gt, Complex.arg_eq_pi_div_two_iff.2 ⟨Int.cast_zero, Int.cast_pos.2 hpos⟩, half_pi_in_degrees]
    norm_num

/-- On the diagonals the angle of the first quadrant is 45 degrees. -/
theorem arctan_diagonal_in_degrees {a : ℝ} (ha : a ≠ 0) : Real.arctan (a / a) * 180 / Real.pi = 45 := by
  have := Real.pi_ne_zero
  rw [div_self ha, Real.arctan_one]
  field_simp
  norm_num

theorem bearingApprox_near_arg {x y : Int} (hx : x ≠ 0) (hy : y ≠ 0) (h : x.natAbs ≠ y.natAbs) :
    |((bearingApprox x y : F) : ℝ) - Complex.arg ⟨(x : ℝ), (y : ℝ)⟩ * 180 / Real.pi| ≤ 1 / 10 ^ 7 :=
  toQuadrant_near_arg hx hy (quadrantApprox_near (Int.natAbs_pos.2 hx) (Int.natAbs_pos.2 hy) h)

/-- Settles O33: exact on the axes and the diagonals; elsewhere off by the stand-in's distance and the free error. -/
theorem bearingIsTheAngle : Obligations.BearingIsTheAngle := by
  intro x y _ _ _ _ horigin
  by_cases hy : y = 0
  · subst hy
    rw [atan2Deg_eq_arg_of_y_zero (by simpa using horigin), sub_self, abs_zero]
    norm_num
  by_cases hx : x = 0
  · subst hx
    rw [atan2Deg_eq_arg_of_x_zero hy, sub_self, abs_zero]
    norm_num
  by_cases hdiag : x.natAbs = y.natAbs
  · rw [atan2Deg_of_diagonal hx hy hdiag]
    refine toQuadrant_near_arg hx hy ?_
    rw [hdiag, arctan_diagonal_in_degrees (by simpa using hy)]
    norm_num
  · have hnear := bearingApprox_near_arg hx hy hdiag
    have herr := boundedError_cast_abs_le (Config.bearingError x y)
    rw [atan2Deg_of_off_axes hx hy hdiag, Rat.cast_add, add_sub_right_comm]
    exact (abs_add_le _ _).trans ((add_le_add hnear herr).trans (by norm_num))

/-! ### Axes, diagonals and the interval -/

/-- The smallest angle off the x axis that codec values make, in radians. -/
theorem arctan_codec_ge {a b : Nat} (ha : 0 < a) (ha' : a ≤ 32767) (hb : 0 < b) :
    1 / 32768 ≤ Real.arctan ((b : ℝ) / a) := by
  have ha0 : (0 : ℝ) < a := by exact_mod_cast ha
  have ha1 : (a : ℝ) ≤ 32767 := by exact_mod_cast ha'
  have hb1 : (1 : ℝ) ≤ b := by exact_mod_cast hb
  have hslope : (1 : ℝ) / 32767 ≤ b / a := div_le_div₀ (by linarith) hb1 ha0 ha1
  have hseries := (arctan_series_bounds (u := 1 / 32767) (by norm_num)).1
  refine le_trans ?_ (Real.arctan_mono hslope)
  norm_num at hseries ⊢
  linarith

/-- The stand-in stays further from both ends of the upper half plane than any error it is stored with. -/
theorem quadrantApprox_mem {a b : Nat} (ha : 0 < a) (ha' : a ≤ 32767) (hb : 0 < b) (hab : a ≠ b) :
    storedErrorBound < quadrantApprox a b ∧ quadrantApprox a b < 180 - storedErrorBound := by
  obtain ⟨hlo, hhi⟩ := abs_le.1 (quadrantApprox_near ha hb hab)
  have hsmall := arctan_codec_ge ha ha' hb
  have hright := (Real.arctan_lt_pi_div_two ((b : ℝ) / a)).le
  have hfactor : 57 ≤ 180 / Real.pi := le_trans (by norm_num [degPerRad]) degPerRad_bounds.1
  rw [mul_div_assoc] at hlo hhi
  have hdeg_lo : 1 / 32768 * 57 ≤ Real.arctan ((b : ℝ) / a) * (180 / Real.pi) :=
    mul_le_mul hsmall hfactor (by norm_num) ((by norm_num : (0 : ℝ) ≤ 1 / 32768).trans hsmall)
  have hdeg_hi : Real.arctan ((b : ℝ) / a) * (180 / Real.pi) ≤ 90 := by
    rw [← half_pi_in_degrees, mul_div_assoc]
    exact mul_le_mul_of_nonneg_right hright (by linarith)
  rw [storedErrorBound_eq, ← Rat.cast_lt (K := ℝ), ← Rat.cast_lt (K := ℝ)]
  push_cast
  constructor <;> linarith

/-- An angle of the first quadrant, away from the x axis by more than `e`, stays on its side of it when moved by `e`. -/
theorem toQuadrant_add_mem {x y : Int} (hx : x ≠ 0) {deg e : F} (hlo : |e| < deg) (hhi : deg < 180 - |e|) :
    (0 < y → 0 < toQuadrant x y deg + e ∧ toQuadrant x y deg + e < 180) ∧
      (y < 0 → -180 < toQuadrant x y deg + e ∧ toQuadrant x y deg + e < 0) := by
  have hge := neg_abs_le e
  have hle := le_abs_self e
  rcases hx.lt_or_gt with hx | hx
  · refine ⟨fun hy => ?_, fun hy => ?_⟩
    · rw [toQuadrant_second _ hx hy]
      constructor <;> linarith
    · rw [toQuadrant_third _ hx hy]
      constructor <;> linarith
  · refine ⟨fun hy => ?_, fun hy => ?_⟩
    · rw [toQuadrant_first _ hx hy]
      constructor <;> linarith
    · rw [toQuadrant_fourth _ hx hy]
      constructor <;> linarith

/-- Off the x axis the bearing of codec values is on the point's side of it. -/
theorem atan2Deg_side {x y : Int} (hx : x ≠ 0) (hy : y ≠ 0) (hcodec : x.natAbs ≤ 32767) :
    (0 < y → 0 < atan2Deg y x ∧ atan2Deg y x < 180) ∧ (y < 0 → -180 < atan2Deg y x ∧ atan2Deg y x < 0) := by
  by_cases hdiag : x.natAbs = y.natAbs
  · rw [atan2Deg_of_diagonal hx hy hdiag, ← add_zero (toQuadrant x y 45)]
    exact toQuadrant_add_mem hx (by norm_num) (by norm_num)
  · have herr := boundedError_abs_le (bound := storedErrorBound) (by norm_num [storedErrorBound_eq]) (Config.bearingError x y)
    obtain ⟨hlo, hhi⟩ := quadrantApprox_mem (Int.natAbs_pos.2 hx) hcodec (Int.natAbs_pos.2 hy) hdiag
    rw [atan2Deg_of_off_axes hx hy hdiag]
    exact toQuadrant_add_mem hx (herr.trans_lt hlo) (by linarith)

theorem atan2Deg_mem_interval {x y : Int} (hcodec : x.natAbs ≤ 32767) (h : ¬(x = 0 ∧ y = 0)) :
    -180 < atan2Deg y x ∧ atan2Deg y x ≤ 180 ∧ (0 < y → 0 < atan2Deg y x ∧ atan2Deg y x < 180) ∧
      (y < 0 → atan2Deg y x < 0) := by
  by_cases hy : y = 0
  · subst hy
    rw [atan2Deg_of_y_zero (by simpa using h)]
    split <;> norm_num
  by_cases hx : x = 0
  · subst hx
    rw [atan2Deg_of_x_zero hy]
    split
    next hneg => exact ⟨by norm_num, by norm_num, fun hpos => absurd hpos hneg.not_gt, fun _ => by norm_num⟩
    next hnonneg => exact ⟨by norm_num, by norm_num, fun _ => by norm_num, fun hneg => absurd hneg hnonneg⟩
  obtain ⟨habove, hbelow⟩ := atan2Deg_side hx hy hcodec
  rcases lt_or_gt_of_ne hy with hneg | hpos
  · obtain ⟨hlo, hhi⟩ := hbelow hneg
    exact ⟨hlo, by linarith, habove, fun _ => hhi⟩
  · obtain ⟨hlo, hhi⟩ := habove hpos
    exact ⟨by linarith, hhi.le, habove, fun h => (hbelow h).2⟩

/-- The four half-axes and the four half-diagonals. -/
theorem atan2Deg_exact {n : Int} (h : 0 < n) :
    atan2Deg 0 n = 0 ∧ atan2Deg n 0 = 90 ∧ atan2Deg 0 (-n) = 180 ∧ atan2Deg (-n) 0 = -90 ∧
      atan2Deg n n = 45 ∧ atan2Deg n (-n) = 135 ∧ atan2Deg (-n) (-n) = -135 ∧ atan2Deg (-n) n = -45 := by
  have hneg : -n < 0 := by omega
  refine ⟨?_, ?_, ?_, ?_, ?_, ?_, ?_, ?_⟩
  · rw [atan2Deg_of_y_zero h.ne', if_neg h.not_gt]
  · rw [atan2Deg_of_x_zero h.ne', if_neg h.not_gt]
  · rw [atan2Deg_of_y_zero hneg.ne, if_pos hneg]
  · rw [atan2Deg_of_x_zero hneg.ne, if_pos hneg]
  · rw [atan2Deg_of_diagonal h.ne' h.ne' rfl, toQuadrant_first _ h h]
  · rw [atan2Deg_of_diagonal hneg.ne h.ne' (by simp), toQuadrant_second _ hneg h]
    norm_num
  · rw [atan2Deg_of_diagonal hneg.ne hneg.ne rfl, toQuadrant_third _ hneg hneg]
    norm_num
  · rw [atan2Deg_of_diagonal h.ne' hneg.ne (by simp), toQuadrant_fourth _ h hneg]

/-- Settles O32: exact on axes and diagonals, free at the origin, within the half turn of its side elsewhere. -/
theorem bearingAxesAndInterval : Obligations.BearingAxesAndInterval :=
  ⟨fun _ => atan2Deg_exact, rfl, fun _ _ _ _ _ _ h => atan2Deg_mem_interval (by omega) h⟩

end Sys2Proof.Machine
end

section
/-! PROOFS. The delivery of a frame (43_target_extractor.md R129 to R135; 44_decode_session.md R147): what storing its targets
writes, then MULTI and SINGLE. -/

namespace Sys2Proof.Machine

/-! ### The stored targets (R132, R134) -/

/-- A present block overwrites its slot, an absent one leaves it. -/
theorem storeTargets_slots (ts : Slots) (s : State) :
    (storeTargets ts s).slots =
      { s1 := ts.s1.or s.slots.s1, s2 := ts.s2.or s.slots.s2, s3 := ts.s3.or s.slots.s3 } := by
  obtain ⟨h1, h2, h3⟩ := storeTargets_slot ts s
  exact congr (congr (congrArg Slots.mk h1) h2) h3

theorem storeTarget_nearest (j : TargetIdx) (t : Slot) (s : State) :
    (storeTarget j t s).nearest = t.toList.foldl (fun m r => nearer m r.range_m) s.nearest := by
  cases t <;> simp [storeTarget]

/-- NEAREST takes the present targets in block order (R132, R169). -/
theorem storeTargets_nearest (ts : Slots) (s : State) :
    (storeTargets ts s).nearest =
      ([ts.s1, ts.s2, ts.s3].filterMap id).foldl (fun m r => nearer m r.range_m) s.nearest := by
  simp [storeTargets, storeTarget_nearest, List.filterMap_eq_flatMap_toList]

/-! ### MULTI (R129) -/

theorem exec_multi_eq_next {b1 b2 b3 : Block} {s t : State} :
    exec (.multi b1 b2 b3) s = .next t ↔
      30 ≤ s.unread ∧ s.params.counts (s.framesParsed + 1) = true ∧ t = s.multiDelivered b1 b2 b3 := by
  constructor
  · intro h
    obtain ⟨hu, _, hm, hc, -⟩ := (deliverFrame_eq_next (kind := .multi)).1 h
    cases hm
    have hc' : s.params.counts (s.framesParsed + 1) = true := by simpa using hc
    rw [exec_multi b1 b2 b3 hu hc'] at h
    cases h
    exact ⟨hu, hc', rfl⟩
  · rintro ⟨hu, hc, rfl⟩
    exact exec_multi b1 b2 b3 hu hc

theorem multiDelivered_slots (b1 b2 b3 : Block) (s : State) :
    (s.multiDelivered b1 b2 b3).slots =
      { s1 := (targetOf s.params.presentOnRaw b1.x b1.y b1.v).or s.slots.s1
        s2 := (targetOf s.params.presentOnRaw b2.x b2.y b2.v).or s.slots.s2
        s3 := (targetOf s.params.presentOnRaw b3.x b3.y b3.v).or s.slots.s3 } :=
  storeTargets_slots _ _

theorem multiDelivered_nearest (b1 b2 b3 : Block) (s : State) :
    (s.multiDelivered b1 b2 b3).nearest =
      ([targetOf s.params.presentOnRaw b1.x b1.y b1.v, targetOf s.params.presentOnRaw b2.x b2.y b2.v,
        targetOf s.params.presentOnRaw b3.x b3.y b3.v].filterMap id).foldl (fun m r => nearer m r.range_m) s.nearest :=
  storeTargets_nearest _ _

/-- Settles O37: the frame of a delivery, with the slots and NEAREST it writes. -/
theorem multiFrameDelivered : Obligations.MultiFrameDelivered := by
  intro s b1 b2 b3 hu hc
  have h := exec_multi b1 b2 b3 hu hc
  have hkeeps := deliverFrame_keeps (kind := .multi) h
  rw [multiDelivered_slots, multiDelivered_nearest] at hkeeps
  exact ⟨_, h.trans (congrArg _ hkeeps)⟩

theorem storeTarget_setInstallOffset (j : TargetIdx) (t : Slot) (a : InstallAngle) (s : State) :
    storeTarget j t (s.setInstallOffset a) = (storeTarget j t s).setInstallOffset a := by
  cases t with
  | none => rfl
  | some r => cases j <;> rfl

theorem storeTargets_setInstallOffset (ts : Slots) (a : InstallAngle) (s : State) :
    storeTargets ts (s.setInstallOffset a) = (storeTargets ts s).setInstallOffset a := by
  simp only [storeTargets, storeTarget_setInstallOffset]

/-- The delivery of a multi frame passes the install angle by (R129, R135). -/
theorem multiDelivered_setInstallOffset (b1 b2 b3 : Block) (a : InstallAngle) (s : State) :
    (s.setInstallOffset a).multiDelivered b1 b2 b3 = (s.multiDelivered b1 b2 b3).setInstallOffset a :=
  congrArg (fun m => { stampLastSeen m with framesParsed := s.framesParsed + 1 })
    (storeTargets_setInstallOffset _ a { s with cursor := s.cursor + 30 })

/-- Settles O57: neither that MULTI completes nor what it delivers reads the angle. -/
theorem multiIgnoresInstallAngle : Obligations.MultiIgnoresInstallAngle := by
  intro s t b1 b2 b3 a h
  obtain ⟨hu, hc, rfl⟩ := exec_multi_eq_next.1 h
  exact exec_multi_eq_next.2 ⟨hu, hc, (multiDelivered_setInstallOffset b1 b2 b3 a s).symm⟩

/-! ### SINGLE (R130) -/

theorem extractInto_single_eq_next {f : List Byte} {s t : State} :
    extractInto .single f s = .next t ↔
      ∃ x, extractSingle s.params.presentOnRaw f s.installOffsetDeg = .ok x ∧ t = storeTarget .t1 x s := by
  unfold extractInto
  cases extractSingle s.params.presentOnRaw f s.installOffsetDeg <;> simp [eq_comm]

/-- Where the extraction answers, a single frame is delivered: one target to slot 1 (R133, R134, R147). -/
theorem exec_single {b : Block} {s : State} {t : Slot} (hu : 14 ≤ s.unread)
    (hc : s.params.counts (s.framesParsed + 1) = true)
    (ht : extractSingle s.params.presentOnRaw (encode (.single b)) s.installOffsetDeg = .ok t) :
    exec (.single b) s = .next { stampLastSeen (storeTarget .t1 t { s with cursor := s.cursor + 14 }) with
      framesParsed := s.framesParsed + 1 } :=
  deliverFrame_eq_next.2 ⟨hu, _, extractInto_single_eq_next.2 ⟨t, ht, rfl⟩, by simpa using hc, by
    simp [FrameKind.len, Config.LEN_SINGLE]⟩

/-- Settles O38: the block is absent, or present under a finite angle, or under one that is none. -/
theorem singleFrameDelivered : Obligations.SingleFrameDelivered := by
  intro s b hu hc
  refine ⟨fun habsent => ?_, fun t deg hpresent hangle => ?_, fun t hpresent hangle => ?_⟩
  · exact exec_single hu hc (extractSingle_of_absent ((decodeBlock_encode_single _ b).trans habsent) _)
  · exact exec_single hu hc (hangle ▸ extractSingle_of_finite ((decodeBlock_encode_single _ b).trans hpresent) deg)
  · have hroom : s.HasRoom 1 0 := ⟨.inr hc, .inl rfl⟩
    exact (Counted.single hu b).refused_angle hroom (by simp [hangle, hpresent])

end Sys2Proof.Machine
end

section
/-! PROOFS. Who writes the slots, NEAREST, LAST_SEEN, FRAMES_PARSED, the samples, the install angle, the parameters and the
agenda (43_target_extractor.md R133, R134; 10_state.md R16 to R19; log entries 4 and 7). -/

namespace Sys2Proof.Machine

/-! ### What only frames, DECODE_CYCLE and RESET write -/

/-- `t` differs from `s` at most in BUF, CURSOR, FRAMES_BAD, RX, the value returned and the event history. -/
def KeepsTargets (s t : State) : Prop :=
  t = { s with
    buf := t.buf
    cursor := t.cursor
    framesBad := t.framesBad
    rx := t.rx
    result := t.result
    events := t.events }

section KeepsTargets

variable {s t : State}

theorem ingest_keepsTargets (h : ingest s = .next t) : KeepsTargets s t := by
  obtain ⟨-, rfl⟩ := ingest_eq_next.1 h
  rfl

theorem enforceCapacity_keepsTargets {max : Nat} (h : enforceCapacity max s = .next t) : KeepsTargets s t := by
  obtain ⟨-, rfl⟩ | ⟨-, -, rfl⟩ := enforceCapacity_eq_next.1 h <;> rfl

theorem compact_keepsTargets (s : State) : KeepsTargets s (compact s) := by
  obtain ⟨-, -, hc⟩ | ⟨-, hc⟩ := compact_cases s <;> rw [hc] <;> rfl

theorem advanceBy_keepsTargets {n : Nat} (h : advanceBy n s = .next t) : KeepsTargets s t := by
  obtain ⟨-, rfl⟩ := advanceBy_eq_next.1 h
  rfl

theorem applySkip_keepsTargets {counted : Bool} (h : applySkip counted s = .next t) : KeepsTargets s t := by
  obtain ⟨-, h⟩ := applySkip_eq_next.1 h
  cases counted with
  | false =>
    obtain rfl : t = _ := by simpa using h
    rfl
  | true =>
    obtain ⟨-, rfl⟩ : _ ∧ t = _ := by simpa using h
    rfl

end KeepsTargets

/-- The operations but DECODE_CYCLE and RESET, and the two skips. -/
theorem exec_keepsTargets {i : Instr} {s t : State} (hcycle : i ≠ .decodeCycle) (hreset : i ≠ .reset)
    (hmulti : ∀ b1 b2 b3, i ≠ .multi b1 b2 b3) (hsingle : ∀ b, i ≠ .single b) (h : exec i s = .next t) :
    KeepsTargets s t := by
  cases i with
  | multi b1 b2 b3 => exact absurd rfl (hmulti b1 b2 b3)
  | single b => exact absurd rfl (hsingle b)
  | reset => exact absurd rfl hreset
  | decodeCycle => exact absurd rfl hcycle
  | corruptByte => exact applySkip_keepsTargets h
  | garbageByte b => exact applySkip_keepsTargets h
  | ingest => exact ingest_keepsTargets h
  | enforceCapacity => exact enforceCapacity_keepsTargets h
  | compact =>
    cases h
    exact compact_keepsTargets s
  | advance n => exact advanceBy_keepsTargets h
  | readU16Le buf offset =>
    rw [execReadU16Le_eq_next h]
    rfl
  | pendingUnread | syncClassify | decodeSigned | toMetres | toMps =>
    cases h
    rfl
  | decodeBlock f j =>
    obtain ⟨x, rfl⟩ := execDecodeBlock_eq_next h
    rw [noteAbsent_eq]
    rfl
  | extractMulti f =>
    obtain ⟨ts, rfl⟩ := execExtractMulti_eq_next h
    rw [noteAbsent_eq, noteAbsent_eq, noteAbsent_eq]
    rfl
  | extractSingle f =>
    obtain ⟨x, rfl⟩ := execExtractSingle_eq_next h
    rw [noteAbsent_eq]
    rfl

/-! ### What no operation writes -/

/-- `t` has the parameters, the install angle and the agenda of `s`. -/
structure SameSetup (s t : State) : Prop where
  params : t.params = s.params
  angle : t.installOffsetDeg = s.installOffsetDeg
  agenda : t.agenda = s.agenda

theorem KeepsTargets.sameSetup {s t : State} (h : KeepsTargets s t) : SameSetup s t := by
  rw [h]
  exact ⟨rfl, rfl, rfl⟩

theorem SameSetup.holdsAcrossOps : HoldsAcrossOps SameSetup where
  refl _ := ⟨rfl, rfl, rfl⟩
  trans h h' := ⟨h'.params.trans h.params, h'.angle.trans h.angle, h'.agenda.trans h.agenda⟩
  value _ _ := ⟨rfl, rfl, rfl⟩
  noTarget _ _ := ⟨rfl, rfl, rfl⟩
  wait _ := ⟨rfl, rfl, rfl⟩
  ingest h := (ingest_keepsTargets h).sameSetup
  enforceCapacity h := (enforceCapacity_keepsTargets h).sameSetup
  compact s := (compact_keepsTargets s).sameSetup
  advance h := (advanceBy_keepsTargets h).sameSetup
  skip h := (applySkip_keepsTargets h).sameSetup
  frame h := by
    rw [deliverFrame_keeps h]
    exact ⟨rfl, rfl, rfl⟩
  clear _ := ⟨rfl, rfl, rfl⟩
  sample _ := ⟨rfl, rfl, rfl⟩

theorem exec_sameSetup {i : Instr} {s t : State} (h : exec i s = .next t) : SameSetup s t := by
  by_cases hi : i = .reset
  · subst hi
    cases h
    exact ⟨rfl, rfl, rfl⟩
  · exact SameSetup.holdsAcrossOps.exec hi h

/-! ### The samples and SINGLE's slots -/

theorem deliverFrame_samples {kind : FrameKind} {f : List Byte} {s t : State} (h : deliverFrame kind f s = .next t) :
    t.bytesPending = s.bytesPending ∧ t.loopDurationMs = s.loopDurationMs := by
  rw [deliverFrame_keeps h]
  exact ⟨rfl, rfl⟩

theorem exec_samples {i : Instr} {s t : State} (hcycle : i ≠ .decodeCycle) (hreset : i ≠ .reset)
    (h : exec i s = .next t) : t.bytesPending = s.bytesPending ∧ t.loopDurationMs = s.loopDurationMs := by
  by_cases hmulti : ∃ b1 b2 b3, i = .multi b1 b2 b3
  · obtain ⟨b1, b2, b3, rfl⟩ := hmulti
    exact deliverFrame_samples (kind := .multi) h
  by_cases hsingle : ∃ b, i = .single b
  · obtain ⟨b, rfl⟩ := hsingle
    exact deliverFrame_samples (kind := .single) h
  · have hkeeps := exec_keepsTargets hcycle hreset (by simpa using hmulti) (by simpa using hsingle) h
    rw [hkeeps]
    exact ⟨rfl, rfl⟩

/-- A single frame writes slot 1 and no other (R134). -/
theorem exec_single_slot {b : Block} {s t : State} {j : TargetIdx} (hj : j ≠ .t1) (h : exec (.single b) s = .next t) :
    t.slot j = s.slot j := by
  obtain ⟨-, _, hm, -, rfl⟩ := (deliverFrame_eq_next (kind := .single)).1 h
  obtain ⟨x, -, rfl⟩ := extractInto_single_eq_next.1 hm
  have hslot := storeTarget_slot .t1 j x { s with cursor := s.cursor + FrameKind.single.len }
  rw [if_neg hj] at hslot
  exact hslot

/-- Settles O56: what every operation keeps, what all but three kinds keep, and SINGLE's two slots. -/
theorem whoWritesWhat : Obligations.WhoWritesWhat := by
  intro s t i h
  have hsetup := exec_sameSetup h
  refine ⟨⟨hsetup.params, hsetup.angle, hsetup.agenda⟩, fun hcycle hreset => exec_samples hcycle hreset h, ?_, ?_⟩
  · intro hcycle hreset hmulti hsingle
    have hkeeps := exec_keepsTargets hcycle hreset hmulti hsingle h
    rw [hkeeps]
    exact ⟨rfl, rfl, rfl, rfl, rfl⟩
  · rintro b rfl
    exact ⟨exec_single_slot (by decide) h, exec_single_slot (by decide) h⟩

end Sys2Proof.Machine
end

section
/-! PROOFS. What a cycle does not read (44_decode_session.md R146, R148, R149): the slots and NEAREST, which it clears before
its drain loop, and the two samples and the agenda (log entry 7). Each of its operations is run in two states that differ in
these fields alone, and comes out alike. -/

namespace Sys2Proof.Machine

/-! ### The fields rewritten, and outcomes through a rewriting -/

/-- The targets rewritten: what the clear of R146 overwrites. -/
def State.withTargets (slots : Slots) (nearest : F) (s : State) : State := { s with slots := slots, nearest := nearest }

/-- The samples and the agenda rewritten: what no operation of a cycle before its last two lines reads or writes (R147). -/
def State.withSession (pending dur : U16) (agenda : List Task) (s : State) : State :=
  { s with bytesPending := pending, loopDurationMs := dur, agenda := agenda }

/-- Two outcomes alike through `g`: the second next state is `g` of the first, or both are the same refusal. -/
abbrev AlikeBy (g : State → State) : Out → Out → Prop := Alike fun s t => t = g s

namespace AlikeBy

variable {g g' : State → State} {o o' u u' : Out}

theorem andThen {k k' : State → Out} (h : AlikeBy g o o') (hk : ∀ m, o = .next m → AlikeBy g' (k m) (k' (g m))) :
    AlikeBy g' (andThen o k) (andThen o' k') :=
  Alike.andThen h fun hm _ hg => hg ▸ hk _ hm

theorem ite {p : Prop} [Decidable p] (h : AlikeBy g o o') (h' : AlikeBy g u u') :
    AlikeBy g (if p then o else u) (if p then o' else u') := by
  split <;> assumption

/-- An operation guarded by a test that does not see `g`. -/
theorem guarded {p : Prop} [Decidable p] {t : State} {r : Refusal} :
    AlikeBy g (if p then .next t else .refused r) (if p then .next (g t) else .refused r) :=
  .ite (.next rfl) (.refused r)

theorem next_eq {s : State} (h : AlikeBy g o o') (ho : o = .next s) : o' = .next (g s) := by
  obtain ⟨_, rfl, hnext⟩ := (ho ▸ h).next_of_next
  exact hnext

end AlikeBy

/-! ### The operations before the clear (R145 lines 1 and 2) -/

section BeforeClear

variable (slots : Slots) (nearest : F) (pending dur : U16) (agenda : List Task) (s : State)

theorem ingest_alike :
    AlikeBy (fun t => (t.withTargets slots nearest).withSession pending dur agenda) (ingest s)
      (ingest ((s.withTargets slots nearest).withSession pending dur agenda)) := by
  rw [ingest_eq, ingest_eq]
  exact .guarded

theorem enforceCapacity_alike (max : Nat) :
    AlikeBy (fun t => (t.withTargets slots nearest).withSession pending dur agenda) (enforceCapacity max s)
      (enforceCapacity max ((s.withTargets slots nearest).withSession pending dur agenda)) :=
  .ite
    (.andThen (g := fun t => (t.withTargets slots nearest).withSession pending dur agenda) .guarded fun _ _ => .next rfl)
    (.next rfl)

theorem clearTargets_withTargets :
    clearTargets ((s.withTargets slots nearest).withSession pending dur agenda) =
      (clearTargets s).withSession pending dur agenda := rfl

end BeforeClear

/-! ### The drain loop and COMPACT (R145 lines 4 to 14) -/

section FromDrain

variable (pending dur : U16) (agenda : List Task)

theorem storeTarget_withSession (j : TargetIdx) (x : Slot) (s : State) :
    storeTarget j x (s.withSession pending dur agenda) = (storeTarget j x s).withSession pending dur agenda := by
  cases x with
  | none => rfl
  | some r => cases j <;> rfl

theorem storeTargets_withSession (ts : Slots) (s : State) :
    storeTargets ts (s.withSession pending dur agenda) = (storeTargets ts s).withSession pending dur agenda := by
  simp only [storeTargets, storeTarget_withSession]

theorem extractInto_alike (kind : FrameKind) (f : List Byte) (s : State) :
    AlikeBy (State.withSession pending dur agenda) (extractInto kind f s)
      (extractInto kind f (s.withSession pending dur agenda)) := by
  cases kind with
  | multi => exact .next (storeTargets_withSession pending dur agenda _ s)
  | single =>
    obtain ⟨x, hx, -⟩ | ⟨hx, -⟩ := extractSingle_cases s.params.presentOnRaw f s.installOffsetDeg
    · simp only [extractInto, State.withSession, hx]
      exact .next (storeTarget_withSession pending dur agenda .t1 x s)
    · simp only [extractInto, State.withSession, hx]
      exact .refused _

theorem advanceBy_alike (n : Nat) (s : State) :
    AlikeBy (State.withSession pending dur agenda) (advanceBy n s) (advanceBy n (s.withSession pending dur agenda)) :=
  .guarded

theorem bumpParsed_alike (s : State) :
    AlikeBy (State.withSession pending dur agenda) (bumpParsed s) (bumpParsed (s.withSession pending dur agenda)) :=
  .guarded

theorem bumpBad_alike (s : State) :
    AlikeBy (State.withSession pending dur agenda) (bumpBad s) (bumpBad (s.withSession pending dur agenda)) :=
  .guarded

theorem deliverFrame_alike (kind : FrameKind) (f : List Byte) (s : State) :
    AlikeBy (State.withSession pending dur agenda) (deliverFrame kind f s)
      (deliverFrame kind f (s.withSession pending dur agenda)) :=
  (advanceBy_alike pending dur agenda kind.len s).andThen fun a _ =>
    (extractInto_alike pending dur agenda kind f a).andThen fun m _ =>
      bumpParsed_alike pending dur agenda (stampLastSeen m)

theorem applySkip_alike (counted : Bool) (s : State) :
    AlikeBy (State.withSession pending dur agenda) (applySkip counted s)
      (applySkip counted (s.withSession pending dur agenda)) :=
  (advanceBy_alike pending dur agenda 1 s).andThen fun a _ =>
    .ite ((bumpBad_alike pending dur agenda a).andThen fun _ _ => .next rfl) (.next rfl)

theorem row_alike {i : Instr} (hi : i.isOp = false) (s : State) :
    AlikeBy (State.withSession pending dur agenda) (exec i s) (exec i (s.withSession pending dur agenda)) := by
  cases i with
  | multi b1 b2 b3 => exact deliverFrame_alike pending dur agenda .multi _ s
  | single b => exact deliverFrame_alike pending dur agenda .single _ s
  | corruptByte => exact applySkip_alike pending dur agenda true s
  | garbageByte b => exact applySkip_alike pending dur agenda false s
  | _ => cases hi

/-- Row by row, since the rows are those of the same unread bytes. -/
theorem drain_alike (s : State) :
    AlikeBy (State.withSession pending dur agenda) (drain s) (drain (s.withSession pending dur agenda)) := by
  generalize hrows : rowsOf s.view = rows
  induction rows generalizing s with
  | nil =>
    rw [drain_of_rowsOf_nil hrows, drain_of_rowsOf_nil (s := s.withSession pending dur agenda) hrows]
    exact .next rfl
  | cons i rows ih =>
    obtain ⟨hi, htail⟩ := decodeFrame_of_rowsOf_cons hrows
    have hop := isOp_of_decodeFrame hi
    rw [drain_of_row hi, drain_of_row (s := s.withSession pending dur agenda) hi]
    exact (row_alike pending dur agenda hop s).andThen fun m hm => ih m ((Consumes.row hop hm).view ▸ htail)

theorem compact_withSession (s : State) :
    compact (s.withSession pending dur agenda) = (compact s).withSession pending dur agenda :=
  (apply_ite (State.withSession pending dur agenda) _ (recordEvent .compacted (dropFront s.cursor s)) s).symm

/-- The last two lines of a cycle overwrite both samples (R148, R149). -/
theorem closeCycle_withSession (s : State) :
    (s.withSession pending dur agenda).closeCycle = { s.closeCycle with agenda := agenda } := by
  rw [State.closeCycle, compact_withSession]
  rfl

end FromDrain

/-! ### The whole cycle (R146) -/

/-- A cycle comes out alike whatever the targets, the samples and the agenda were; the agenda it leaves. -/
theorem decodeCycle_alike (slots : Slots) (nearest : F) (pending dur : U16) (agenda : List Task) (s : State) :
    AlikeBy (fun t => { t with agenda := agenda }) (decodeCycle s)
      (decodeCycle ((s.withTargets slots nearest).withSession pending dur agenda)) := by
  refine (ingest_alike slots nearest pending dur agenda s).andThen fun a _ => ?_
  refine (enforceCapacity_alike slots nearest pending dur agenda a _).andThen fun b _ => ?_
  rw [clearTargets_withTargets]
  exact (drain_alike pending dur agenda _).andThen fun c _ => .next (closeCycle_withSession pending dur agenda c)

theorem withAgenda_of_decodeCycle {s t : State} (h : decodeCycle s = .next t) : { t with agenda := s.agenda } = t := by
  rw [← decodeCycle_agenda h]

/-- Settles O46: the two cycles come out alike, up to an agenda that is the same in both. -/
theorem cycleStartsFromClearedTargets : Obligations.CycleStartsFromClearedTargets := by
  intro s slots nearest pending dur
  have h := decodeCycle_alike slots nearest pending dur s.agenda s
  change decodeCycle ((s.withTargets slots nearest).withSession pending dur s.agenda) = decodeCycle s
  cases hs : decodeCycle s with
  | next t => rw [h.next_eq hs, withAgenda_of_decodeCycle hs]
  | refused r => exact (hs ▸ h).refused_of_refused
  | fault r => cases r

end Sys2Proof.Machine
end

section
/-! PROOFS. The decode session (44_decode_session.md): the inner steps of a cycle, a cycle in single steps, and a cycle with
nothing to do. -/

namespace Sys2Proof.Machine

/-! ### The inner steps (R145 lines 3, 15 and 16) -/

/-- Settles O10: the idle step, the clear, and the samples with CURSOR within BUF. -/
theorem innerStepsAndIdle : Obligations.InnerStepsAndIdle := by
  refine ⟨fun _ => step_of_idle, fun _ _ => step_of_clearTargets, fun s rest hag hs => ?_⟩
  have hpending : pendingUnread { s with agenda := rest } = BitVec.ofNat 16 (s.len - s.cursor) := if_pos hs
  rw [step_of_sample hag, samplePending, hpending]
  rfl

/-! ### A cycle in single steps (R145, R150) -/

theorem StepsTo.append {n k : Nat} {s m t : State} (h : StepsTo n s m) (h' : StepsTo k m t) : StepsTo (k + n) s t := by
  induction h with
  | here => exact h'
  | more first _ ih => exact .more first (ih h')

theorem decodeFrame_of_rowsOf_nil {w : List Byte} (h : rowsOf w = []) : ∃ e, decodeFrame w = .error e := by
  rw [rowsOf_eq] at h
  split at h
  next => cases h
  next e he => exact ⟨e, he⟩

section SingleSteps

variable {pending dur : U16} {rest : List Task}

/-- A drain loop that ends is run by steps, a row a step and one for the wait (R96, R147). -/
theorem stepsTo_of_drain {s t : State} (h : drain s = .next t) :
    ∃ n, StepsTo n (s.withSession pending dur (.drain :: rest)) (t.withSession pending dur rest) := by
  generalize hrows : rowsOf s.view = rows
  induction rows generalizing s with
  | nil =>
    obtain ⟨e, he⟩ := decodeFrame_of_rowsOf_nil hrows
    cases (drain_of_wait he).symm.trans h
    exact ⟨1, .more (step_of_drain_wait rfl he) (.here _)⟩
  | cons i rows ih =>
    obtain ⟨hi, htail⟩ := decodeFrame_of_rowsOf_cons hrows
    have hop := isOp_of_decodeFrame hi
    obtain ⟨m, hm, ht⟩ := andThen_eq_next.1 ((drain_of_row hi).symm.trans h)
    obtain ⟨n, hrun⟩ := ih ht ((Consumes.row hop hm).view ▸ htail)
    have hstep : step (s.withSession pending dur (.drain :: rest)) = .next (m.withSession pending dur (.drain :: rest)) :=
      (step_of_drain_row (s := s.withSession pending dur (.drain :: rest)) rfl hi).trans
        ((row_alike pending dur _ hop s).next_eq hm)
    exact ⟨n + 1, .more hstep hrun⟩

theorem step_of_operation {i : Instr} (hwf : i.wellFormed = true) (hop : i.isOp = true) (s : State) :
    step (s.withSession pending dur (.word (encode i) :: rest)) = exec i (s.withSession pending dur rest) :=
  step_of_word rfl (operationWordsRoundTrip i hwf hop).1

/-- The tasks of a cycle, run to the end, leave the state the cycle gives, and what stood behind them on the agenda. -/
theorem stepsTo_of_decodeCycle {slots : Slots} {nearest : F} {s t : State} (h : decodeCycle s = .next t) :
    ∃ n, StepsTo n ((s.withTargets slots nearest).withSession pending dur (cycleTasks ++ rest))
      { t with agenda := rest } := by
  obtain ⟨a, b, c, ha, hb, hc, rfl⟩ := decodeCycle_eq_next.1 h
  have ingestStep (tasks : List Task) := (step_of_operation (rest := tasks) (i := .ingest) rfl rfl _).trans
    ((ingest_alike slots nearest pending dur tasks s).next_eq ha)
  have capacityStep (tasks : List Task) := (step_of_operation (rest := tasks) (i := .enforceCapacity) rfl rfl _).trans
    ((enforceCapacity_alike slots nearest pending dur tasks a _).next_eq hb)
  obtain ⟨n, drainRun⟩ := stepsTo_of_drain hc
  have compactStep := (step_of_operation (i := .compact) rfl rfl _).trans
    (congrArg Host.Outcome.next (compact_withSession pending dur (.sample :: rest) c))
  have closing := StepsTo.more compactStep (.more (step_of_sample rfl) (.here _))
  exact ⟨_, .more (ingestStep _) (.more (capacityStep _) (.more (step_of_clearTargets rfl) (drainRun.append closing)))⟩

end SingleSteps

/-- Settles O48: the run of the cycle's tasks in front of the agenda of `s`, which the whole cycle leaves too. -/
theorem singleStepsRefineDecodeCycle : Obligations.SingleStepsRefineDecodeCycle := by
  intro s t h
  obtain ⟨n, hrun⟩ := stepsTo_of_decodeCycle (slots := s.slots) (nearest := s.nearest) (pending := s.bytesPending)
    (dur := s.loopDurationMs) (rest := s.agenda) h
  rw [withAgenda_of_decodeCycle h] at hrun
  exact ⟨n, hrun⟩

/-! ### A cycle with nothing to do (R151) -/

theorem compact_of_le {s : State} (h : 2 * s.cursor ≤ s.len) : compact s = s := if_neg fun h' => Nat.not_lt.2 h h'.2

theorem atDrain_of_rx_nil {s : State} (h : s.rx = []) : s.atDrain = clearTargets s := by
  simp [State.atDrain, clearTargets, h]

theorem unread_of_view_eq {s t : State} (h : t.view = s.view) : t.unread = s.unread := by
  rw [unread_eq_view_length, unread_eq_view_length, h]

/-- Where nothing has arrived and nothing is complete, a cycle clears the targets, waits, and closes. -/
theorem decodeCycle_of_idle {s : State} (hinv : s.Inv) (hlen : s.len ≤ Config.MAX_LEN) (hrx : s.rx = [])
    (hwait : s.verdict = .needMore) :
    decodeCycle s = .next (recordEvent .incomplete (clearTargets s)).closeCycle := by
  have hfits : s.params.fits (s.len + s.rx.length) = true := by
    rw [hrx]
    exact (memory_wf_iff _ _).1 hinv.memory_wf
  have hdrain : drain s.atDrain = .next (recordEvent .incomplete (clearTargets s)) := by
    rw [atDrain_of_rx_nil hrx, drain_eq, verdict_of_view_eq (view_clearTargets s), hwait]
  exact decodeCycle_of_le_ceiling hfits (hrx ▸ hlen) hdrain

/-- Settles O47: only the clear, COMPACT and the samples act. -/
theorem emptyCycle : Obligations.EmptyCycle := by
  intro s hinv hboundary hrx hwait
  have hcycle := decodeCycle_of_idle hinv (hboundary.len_le.trans (by decide)) hrx hwait
  have hview := view_closeCycle (recordEvent .incomplete (clearTargets s))
  have hpending := (decodeCycle_boundary hinv.cursor_le_len hcycle).pending
  refine ⟨_, hcycle, fun j => ?_, ?_, closeCycle_framesParsed _, closeCycle_framesBad _, ?_, ?_, ?_, hview,
    fun hle => ?_⟩
  · rw [closeCycle_slot]
    cases j <;> rfl
  · simp [State.closeCycle]
  · simp [State.closeCycle]
  · exact BitVec.eq_of_toNat_eq (hpending.trans ((unread_of_view_eq hview).trans hboundary.pending.symm))
  · simp [State.closeCycle]
  · rw [State.closeCycle, compact_of_le (s := recordEvent .incomplete (clearTargets s)) hle]
    exact ⟨rfl, rfl⟩

end Sys2Proof.Machine
end

section
/-! PROOFS. Where a cycle completes, and the counters it leaves (60_exceptions.md R160; 44_decode_session.md R145;
95_test_vectors.md 2.5). -/

namespace Sys2Proof.Machine

/-- With room in both counters and an angle that serves, neither stop of a counted operation can occur. -/
theorem Counted.exists_next {s : State} {frames bad : Nat} {angle : Prop} {o : Out} (h : Counted s frames bad angle o)
    (room : s.HasRoom frames bad) (serves : angle) :
    ∃ t, o = .next t ∧ t.framesParsed = s.framesParsed + frames ∧ t.framesBad = s.framesBad + bad := by
  cases h with
  | completes _ _ hparsed hbad => exact ⟨_, rfl, hparsed, hbad⟩
  | overflows full => exact absurd room full
  | angleFails fails => exact absurd serves fails

/-- Settles O43: the chunk fits, so the cycle counts what it meets, and the two other premises rule out its stops. -/
theorem decodeCycleCompletes : Obligations.DecodeCycleCompletes := by
  intro s hfits room serves
  exact (Counted.decodeCycle hfits).exists_next ((cycleHasRoom_iff s).1 room) serves

end Sys2Proof.Machine
end

section
/-! PROOFS. RESET (70_reset_and_hazards.md R180, R181), and what the synchronizer makes of the front of a multi frame whose
second x word reads as a trailer (R191). -/

namespace Sys2Proof

theorem bytes_twentyEight_encode_multi (b1 b2 b3 : Block) :
    ((encode (.multi b1 b2 b3)).drop 28).take 2 = [0x55, 0xCC] := rfl

end Sys2Proof

namespace Sys2Proof.Machine

/-! ### RESET (R180, R181) -/

/-- Settles O41: the nine fields RESET writes are all it writes. -/
theorem resetValues : Obligations.ResetValues := fun _ => rfl

theorem reset_slot (j : TargetIdx) : State.reset.slot j = none := by
  cases j <;> rfl

/-- Settles O42: the values are read off, and the rest is what a host finds at the start of every run. -/
theorem resetStateMeetsTheInvariants : Obligations.ResetStateMeetsTheInvariants := by
  obtain ⟨hinv, hboundary, hagenda⟩ := HostState.resetState
  exact ⟨rfl, rfl, reset_slot, rfl, rfl, rfl, rfl, rfl, rfl, hinv, hboundary, hagenda⟩

/-! ### The chunking hazard (R191) -/

section MultiFront

variable {s : State} {b1 b2 b3 : Block} {k : Nat}

theorem unread_of_multi_front (hview : s.view = (encode (.multi b1 b2 b3)).take k) : s.unread = min k 30 := by
  rw [unread_eq_view_length, hview, List.length_take, encode_multi_length]

theorem headerHere_of_multi_front (hview : s.view = (encode (.multi b1 b2 b3)).take k) (hk : 4 ≤ k) :
    s.headerHere := by
  rw [headerHere_iff, hview, List.take_take, Nat.min_eq_left hk, take_four_encode_multi]

/-- Both bytes at `n` are in the front, so they are a trailer where the whole frame has one. -/
theorem trailerHere_iff_of_multi_front {n : Nat} (hview : s.view = (encode (.multi b1 b2 b3)).take k)
    (hk : n + 2 ≤ k) : s.trailerHere n ↔ ((encode (.multi b1 b2 b3)).drop n).take 2 = [0x55, 0xCC] := by
  rw [trailerHere_iff, hview, List.drop_take, List.take_take, Nat.min_eq_left (Nat.le_sub_of_add_le' hk)]

/-- With a trailer's bytes at 12, the number of bytes there decides the verdict (R91, R191). -/
theorem verdict_of_multi_front (hx : b2.x = 0xCC55) (hview : s.view = (encode (.multi b1 b2 b3)).take k) :
    s.verdict = if k < 14 then .needMore else if k < 30 then .frame .single else .frame .multi := by
  have hU := unread_of_multi_front hview
  by_cases h14 : k < 14
  · rw [if_pos h14]
    exact verdict_of_short (by omega)
  have hH := headerHere_of_multi_front hview (by omega)
  rw [if_neg h14]
  split_ifs with h30
  · have h12 := (trailerHere_iff_of_multi_front hview (n := 12) (by omega)).2
      ((bytes_twelve_encode_multi b1 b2 b3).trans ((wordBytes_eq_trailer_iff b2.x).2 hx))
    exact verdict_of_single (by omega) hH (fun ⟨hmulti, _⟩ => by omega) h12
  · have h28 := (trailerHere_iff_of_multi_front hview (n := 28) (by omega)).2 (bytes_twentyEight_encode_multi b1 b2 b3)
    exact verdict_of_multi (by omega) hH h28

end MultiFront

/-- Settles O27: SYNC_CLASSIFY returns the verdict and writes nothing else. -/
theorem chunkingHazard : Obligations.ChunkingHazard := by
  intro s b1 b2 b3 k hx hview
  rw [exec_syncClassify, verdict_of_multi_front hx hview]

end Sys2Proof.Machine
end
